-- ==== Sys2Proof/Word.lean ====
section
/-! DEFINITION. The word types of the machine (00_scope.md R7, R8): a byte, a 16-bit word (I, pc, a return address, an
instruction word), a register number, and the step of the program counter. All values are unsigned. -/

namespace Sys2Proof

/-- One byte: a V register, a timer, a cell of memory, the immediate `kk` (R7, R10, R17). -/
abbrev Byte := BitVec 8

/-- A 16-bit word: `I`, `pc`, a return address, an instruction (R7, R12, R13, R15, R60). -/
abbrev Word := BitVec 16

/-- The 12-bit address operand `nnn` (R61). -/
abbrev Addr12 := BitVec 12

/-- The number of a V register, and the number of a key: one hexadecimal digit (R10, R21, R61). -/
abbrev Reg := Fin 16

/-- `VF`, the register that doubles as the flag (R11). -/
abbrev VF : Reg := 15

end Sys2Proof
end

