-- ==== Sys2Proof/Syntax.lean ====
section
/-! DEFINITION. The 35 instructions of 30_encoding.md R64, one constructor per row of spec/opcode_table.json, in the
table's order. The operand fields are those of R61 and R62; every operand field of the word is an operand here, also the
`y` that SHR and SHL ignore. A word that matches no row is no instruction (R66): it has no constructor, the decoder
rejects it by name, and STEP runs it as the no-op of R87 (`Machine.execUnmatched`). -/

namespace Sys2Proof

inductive Instr where
  /-- `00E0` CLS (R90). -/
  | cls
  /-- `00EE` RET (R103). -/
  | ret
  /-- `0nnn` SYS nnn (R86). -/
  | sys (nnn : Addr12)
  /-- `1nnn` JP nnn (R100). -/
  | jp (nnn : Addr12)
  /-- `2nnn` CALL nnn (R102). -/
  | call (nnn : Addr12)
  /-- `3xkk` SE Vx, kk (R110). -/
  | seByte (x : Reg) (kk : Byte)
  /-- `4xkk` SNE Vx, kk (R111). -/
  | sneByte (x : Reg) (kk : Byte)
  /-- `5xy0` SE Vx, Vy (R112). -/
  | seReg (x y : Reg)
  /-- `6xkk` LD Vx, kk (R120). -/
  | ldByte (x : Reg) (kk : Byte)
  /-- `7xkk` ADD Vx, kk (R121). -/
  | addByte (x : Reg) (kk : Byte)
  /-- `8xy0` LD Vx, Vy (R122). -/
  | ldReg (x y : Reg)
  /-- `8xy1` OR Vx, Vy (R123). -/
  | orReg (x y : Reg)
  /-- `8xy2` AND Vx, Vy (R124). -/
  | andReg (x y : Reg)
  /-- `8xy3` XOR Vx, Vy (R125). -/
  | xorReg (x y : Reg)
  /-- `8xy4` ADD Vx, Vy (R126). -/
  | addReg (x y : Reg)
  /-- `8xy5` SUB Vx, Vy (R127). -/
  | subReg (x y : Reg)
  /-- `8xy6` SHR Vx; `y` is a field of the word that the instruction ignores (R128). -/
  | shr (x y : Reg)
  /-- `8xy7` SUBN Vx, Vy (R129). -/
  | subnReg (x y : Reg)
  /-- `8xyE` SHL Vx; `y` is a field of the word that the instruction ignores (R131). -/
  | shl (x y : Reg)
  /-- `9xy0` SNE Vx, Vy (R113). -/
  | sneReg (x y : Reg)
  /-- `Annn` LD I, nnn (R140). -/
  | ldI (nnn : Addr12)
  /-- `Bnnn` JP V0, nnn (R101). -/
  | jpV0 (nnn : Addr12)
  /-- `Cxkk` RND Vx, kk (R132). -/
  | rnd (x : Reg) (kk : Byte)
  /-- `Dxyn` DRW Vx, Vy, n: `n` is the count of rows, 0 to 15 (R91). -/
  | drw (x y : Reg) (n : Fin 16)
  /-- `Ex9E` SKP Vx (R161). -/
  | skp (x : Reg)
  /-- `ExA1` SKNP Vx (R162). -/
  | sknp (x : Reg)
  /-- `Fx07` LD Vx, DT (R150). -/
  | ldVxDT (x : Reg)
  /-- `Fx0A` LD Vx, K (R163). -/
  | ldVxK (x : Reg)
  /-- `Fx15` LD DT, Vx (R151). -/
  | ldDTVx (x : Reg)
  /-- `Fx18` LD ST, Vx (R152). -/
  | ldSTVx (x : Reg)
  /-- `Fx1E` ADD I, Vx (R141). -/
  | addI (x : Reg)
  /-- `Fx29` LD F, Vx (R142). -/
  | ldF (x : Reg)
  /-- `Fx33` LD B, Vx (R143). -/
  | ldB (x : Reg)
  /-- `Fx55` LD [I], Vx (R144). -/
  | storeRegs (x : Reg)
  /-- `Fx65` LD Vx, [I] (R145). -/
  | loadRegs (x : Reg)
  deriving DecidableEq, Repr

end Sys2Proof
end

