-- ==== Sys2Proof/WellFormed.lean ====
section
/-! DEFINITION. Which terms of `Instr` are instructions. The types of the operands already hold every operand within its
field (R61, R63: "every value is legal"); the one check left is that of R86: SYS is `0nnn` for every `nnn` except 0x0E0
(the word of CLS) and 0x0EE (the word of RET), since "the FIXED row wins" (R65). -/

namespace Sys2Proof

/-- The `nnn` for which `0nnn` is SYS and not CLS or RET (R65, R86). -/
def sysOperandOk (nnn : Addr12) : Bool := nnn != 0x0E0#12 && nnn != 0x0EE#12

def Instr.wf : Instr → Bool
  | .cls => true
  | .ret => true
  | .sys nnn => sysOperandOk nnn
  | .jp _ => true
  | .call _ => true
  | .seByte _ _ => true
  | .sneByte _ _ => true
  | .seReg _ _ => true
  | .ldByte _ _ => true
  | .addByte _ _ => true
  | .ldReg _ _ => true
  | .orReg _ _ => true
  | .andReg _ _ => true
  | .xorReg _ _ => true
  | .addReg _ _ => true
  | .subReg _ _ => true
  | .shr _ _ => true
  | .subnReg _ _ => true
  | .shl _ _ => true
  | .sneReg _ _ => true
  | .ldI _ => true
  | .jpV0 _ => true
  | .rnd _ _ => true
  | .drw _ _ _ => true
  | .skp _ => true
  | .sknp _ => true
  | .ldVxDT _ => true
  | .ldVxK _ => true
  | .ldDTVx _ => true
  | .ldSTVx _ => true
  | .addI _ => true
  | .ldF _ => true
  | .ldB _ => true
  | .storeRegs _ => true
  | .loadRegs _ => true

end Sys2Proof
end

