-- ==== Sys2Proof/Decode.lean ====
section
/-! DEFINITION. The decoder and the encoder (30_encoding.md). One format: a 16-bit word, the more significant byte at the
lower address (R60, R42), cut into four nibbles `a b c d` (R61); `x` = b, `y` = c, `n` = d, `kk` = c ++ d,
`nnn` = b ++ c ++ d. The match is exact on every fixed bit (R65). The bit patterns are those of the table of R64, which
the spec takes from general knowledge but for `0nnn` and `Fx0A` (decision D1; log entry 12). -/

namespace Sys2Proof

/-- Why the decoder gives no instruction. -/
inductive DecodeReject where
  /-- The word matches no row of R64 (R66). STEP runs such a word as a no-op (R87), so this is no stop of the machine. -/
  | noRow (w : Word)
  /-- Fewer than two bytes were given; a fetch always gives two (R44, R60). -/
  | truncated (n : Nat)
  deriving DecidableEq, Repr

/-- Field `a`, bits 15:12: the major opcode (R61). -/
def fieldA (w : Word) : Nat := (w.extractLsb' 12 4).toNat

/-- Field `b` = `x`, bits 11:8 (R61). -/
def fieldX (w : Word) : Reg := ⟨(w.extractLsb' 8 4).toNat, (w.extractLsb' 8 4).isLt⟩

/-- Field `c` = `y`, bits 7:4 (R61). -/
def fieldY (w : Word) : Reg := ⟨(w.extractLsb' 4 4).toNat, (w.extractLsb' 4 4).isLt⟩

/-- Field `d` = `n`, bits 3:0 (R61). -/
def fieldN (w : Word) : Fin 16 := ⟨(w.extractLsb' 0 4).toNat, (w.extractLsb' 0 4).isLt⟩

/-- Field `kk`, bits 7:0 (R61). -/
def fieldKK (w : Word) : Byte := w.extractLsb' 0 8

/-- Field `nnn`, bits 11:0 (R61). -/
def fieldNNN (w : Word) : Addr12 := w.extractLsb' 0 12

/-- The rows of the major opcode 0: CLS and RET are tested before SYS (R64, R65). -/
def decodeMajor0 (nnn : Addr12) : Instr :=
  if nnn = 0x0E0#12 then .cls else if nnn = 0x0EE#12 then .ret else .sys nnn

/-- The rows `8xyd` (R64 rows 11 to 19). -/
def decodeMajor8 (x y : Reg) (d : Nat) : Option Instr :=
  match d with
  | 0x0 => some (.ldReg x y)
  | 0x1 => some (.orReg x y)
  | 0x2 => some (.andReg x y)
  | 0x3 => some (.xorReg x y)
  | 0x4 => some (.addReg x y)
  | 0x5 => some (.subReg x y)
  | 0x6 => some (.shr x y)
  | 0x7 => some (.subnReg x y)
  | 0xE => some (.shl x y)
  | _ => none

/-- The rows `Exkk` (R64 rows 25 and 26). -/
def decodeMajorE (x : Reg) (kk : Byte) : Option Instr :=
  if kk = 0x9E#8 then some (.skp x)
  else if kk = 0xA1#8 then some (.sknp x)
  else none

/-- The rows `Fxkk` (R64 rows 27 to 35). -/
def decodeMajorF (x : Reg) (kk : Byte) : Option Instr :=
  if kk = 0x07#8 then some (.ldVxDT x)
  else if kk = 0x0A#8 then some (.ldVxK x)
  else if kk = 0x15#8 then some (.ldDTVx x)
  else if kk = 0x18#8 then some (.ldSTVx x)
  else if kk = 0x1E#8 then some (.addI x)
  else if kk = 0x29#8 then some (.ldF x)
  else if kk = 0x33#8 then some (.ldB x)
  else if kk = 0x55#8 then some (.storeRegs x)
  else if kk = 0x65#8 then some (.loadRegs x)
  else none

/-- The row of R64 that the fields of a word select, if one does (R65). -/
def decodeFields (a : Nat) (x y : Reg) (n : Fin 16) (kk : Byte) (nnn : Addr12) : Option Instr :=
  match a with
  | 0x0 => some (decodeMajor0 nnn)
  | 0x1 => some (.jp nnn)
  | 0x2 => some (.call nnn)
  | 0x3 => some (.seByte x kk)
  | 0x4 => some (.sneByte x kk)
  | 0x5 => if n = 0 then some (.seReg x y) else none
  | 0x6 => some (.ldByte x kk)
  | 0x7 => some (.addByte x kk)
  | 0x8 => decodeMajor8 x y n.val
  | 0x9 => if n = 0 then some (.sneReg x y) else none
  | 0xA => some (.ldI nnn)
  | 0xB => some (.jpV0 nnn)
  | 0xC => some (.rnd x kk)
  | 0xD => some (.drw x y n)
  | 0xE => decodeMajorE x kk
  | 0xF => decodeMajorF x kk
  | _ => none

/-- The decoder, total on words: the instruction of R64, or a rejection by name (R65, R66). -/
def decodeWord (w : Word) : Except DecodeReject Instr :=
  match decodeFields (fieldA w) (fieldX w) (fieldY w) (fieldN w) (fieldKK w) (fieldNNN w) with
  | some i => .ok i
  | none => .error (.noRow w)

/-- The decoder, total on bytes: two bytes make a word, the first the more significant (R42, R60); it gives the bytes left. -/
def decodeBytes : List Byte → Except DecodeReject (Instr × List Byte)
  | hi :: lo :: rest => (decodeWord (hi ++ lo)).map (fun i => (i, rest))
  | bs => .error (.truncated bs.length)

/-! ### The encoder, from the same table -/

/-- A register number or a row count as a nibble. -/
def nibble (x : Fin 16) : BitVec 4 := BitVec.ofNat 4 x.val

/-- Shape NNN: `annn` (R62). -/
def shapeNNN (a : BitVec 4) (nnn : Addr12) : Word := a ++ nnn

/-- Shape XKK: `axkk` (R62); shape X is XKK with `kk` fixed. -/
def shapeXKK (a : BitVec 4) (x : Reg) (kk : Byte) : Word := a ++ nibble x ++ kk

/-- Shape XYN: `axyn` (R62); shape XY is XYN with the last nibble fixed. -/
def shapeXYN (a : BitVec 4) (x y : Reg) (n : BitVec 4) : Word := a ++ nibble x ++ nibble y ++ n

/-- The word of an instruction (R64); `decodeWord` gives a well-formed one back. -/
def encode : Instr → Word
  | .cls => 0x00E0#16
  | .ret => 0x00EE#16
  | .sys nnn => shapeNNN 0x0#4 nnn
  | .jp nnn => shapeNNN 0x1#4 nnn
  | .call nnn => shapeNNN 0x2#4 nnn
  | .seByte x kk => shapeXKK 0x3#4 x kk
  | .sneByte x kk => shapeXKK 0x4#4 x kk
  | .seReg x y => shapeXYN 0x5#4 x y 0x0#4
  | .ldByte x kk => shapeXKK 0x6#4 x kk
  | .addByte x kk => shapeXKK 0x7#4 x kk
  | .ldReg x y => shapeXYN 0x8#4 x y 0x0#4
  | .orReg x y => shapeXYN 0x8#4 x y 0x1#4
  | .andReg x y => shapeXYN 0x8#4 x y 0x2#4
  | .xorReg x y => shapeXYN 0x8#4 x y 0x3#4
  | .addReg x y => shapeXYN 0x8#4 x y 0x4#4
  | .subReg x y => shapeXYN 0x8#4 x y 0x5#4
  | .shr x y => shapeXYN 0x8#4 x y 0x6#4
  | .subnReg x y => shapeXYN 0x8#4 x y 0x7#4
  | .shl x y => shapeXYN 0x8#4 x y 0xE#4
  | .sneReg x y => shapeXYN 0x9#4 x y 0x0#4
  | .ldI nnn => shapeNNN 0xA#4 nnn
  | .jpV0 nnn => shapeNNN 0xB#4 nnn
  | .rnd x kk => shapeXKK 0xC#4 x kk
  | .drw x y n => shapeXYN 0xD#4 x y (nibble n)
  | .skp x => shapeXKK 0xE#4 x 0x9E#8
  | .sknp x => shapeXKK 0xE#4 x 0xA1#8
  | .ldVxDT x => shapeXKK 0xF#4 x 0x07#8
  | .ldVxK x => shapeXKK 0xF#4 x 0x0A#8
  | .ldDTVx x => shapeXKK 0xF#4 x 0x15#8
  | .ldSTVx x => shapeXKK 0xF#4 x 0x18#8
  | .addI x => shapeXKK 0xF#4 x 0x1E#8
  | .ldF x => shapeXKK 0xF#4 x 0x29#8
  | .ldB x => shapeXKK 0xF#4 x 0x33#8
  | .storeRegs x => shapeXKK 0xF#4 x 0x55#8
  | .loadRegs x => shapeXKK 0xF#4 x 0x65#8

/-- The more significant byte of a word: the one at the lower address (R42, R61). -/
def highByte (w : Word) : Byte := w.extractLsb' 8 8

/-- The less significant byte of a word: the one at the higher address (R42, R61). -/
def lowByte (w : Word) : Byte := w.extractLsb' 0 8

/-- The two bytes of an instruction as memory holds them (R42, R60). -/
def encodeBytes (i : Instr) : List Byte := [highByte (encode i), lowByte (encode i)]

/-- `mask` and `match` of the row of R64 that an instruction is. -/
def opcodeRow : Instr → Word × Word
  | .cls => (0xFFFF#16, 0x00E0#16)
  | .ret => (0xFFFF#16, 0x00EE#16)
  | .sys _ => (0xF000#16, 0x0000#16)
  | .jp _ => (0xF000#16, 0x1000#16)
  | .call _ => (0xF000#16, 0x2000#16)
  | .seByte _ _ => (0xF000#16, 0x3000#16)
  | .sneByte _ _ => (0xF000#16, 0x4000#16)
  | .seReg _ _ => (0xF00F#16, 0x5000#16)
  | .ldByte _ _ => (0xF000#16, 0x6000#16)
  | .addByte _ _ => (0xF000#16, 0x7000#16)
  | .ldReg _ _ => (0xF00F#16, 0x8000#16)
  | .orReg _ _ => (0xF00F#16, 0x8001#16)
  | .andReg _ _ => (0xF00F#16, 0x8002#16)
  | .xorReg _ _ => (0xF00F#16, 0x8003#16)
  | .addReg _ _ => (0xF00F#16, 0x8004#16)
  | .subReg _ _ => (0xF00F#16, 0x8005#16)
  | .shr _ _ => (0xF00F#16, 0x8006#16)
  | .subnReg _ _ => (0xF00F#16, 0x8007#16)
  | .shl _ _ => (0xF00F#16, 0x800E#16)
  | .sneReg _ _ => (0xF00F#16, 0x9000#16)
  | .ldI _ => (0xF000#16, 0xA000#16)
  | .jpV0 _ => (0xF000#16, 0xB000#16)
  | .rnd _ _ => (0xF000#16, 0xC000#16)
  | .drw _ _ _ => (0xF000#16, 0xD000#16)
  | .skp _ => (0xF0FF#16, 0xE09E#16)
  | .sknp _ => (0xF0FF#16, 0xE0A1#16)
  | .ldVxDT _ => (0xF0FF#16, 0xF007#16)
  | .ldVxK _ => (0xF0FF#16, 0xF00A#16)
  | .ldDTVx _ => (0xF0FF#16, 0xF015#16)
  | .ldSTVx _ => (0xF0FF#16, 0xF018#16)
  | .addI _ => (0xF0FF#16, 0xF01E#16)
  | .ldF _ => (0xF0FF#16, 0xF029#16)
  | .ldB _ => (0xF0FF#16, 0xF033#16)
  | .storeRegs _ => (0xF0FF#16, 0xF055#16)
  | .loadRegs _ => (0xF0FF#16, 0xF065#16)

/-! ### The host's question: one word of the opcode table -/

/-- The word that the host's number stands for: bit 0 is the word's least significant bit, and every bit from `nbits` up
is 0. -/
def tableWord (nbits w : Nat) : Word := BitVec.ofNat 16 (w % 2 ^ nbits)

/-- The instruction the decoder reads from the two bytes of that word, laid out as memory holds them (R42). -/
def decodeTableWord (nbits w : Nat) : Option Instr :=
  match decodeBytes [highByte (tableWord nbits w), lowByte (tableWord nbits w)] with
  | .ok (i, _) => some i
  | .error _ => none

end Sys2Proof
end

