-- ==== Sys2Proof/Config.lean ====
section
/-! DEFINITION. What this implementation fixes (00_scope.md R7) and the one free value of the machine, the random draw
(44_register_ops.md R132). -/

namespace Sys2Proof

/-- `draw8()` of R8 and R132: the byte the `k`-th execution of RND draws. It has NO BODY: no value of it can be computed
or proved, so whatever is proved of a run holds for every sequence of draws ("under no law"). The counter `k` is
`State.draws`. Log entry 1. -/
opaque Config.freeDraw : Nat → Byte

/-- PROG_BASE: the address a program image is copied to (R7, R203). -/
abbrev Config.progBase : Nat := 0x200

/-- PROG_MAX: the longest program image, 4096 - 512 bytes (R7, R203, R204). -/
abbrev Config.progMax : Nat := 3584

/-- PC_RESET: the entry point (R7, R13, R201; the spec's decision D7, log entry 14). -/
abbrev Config.pcReset : Word := 0x200

end Sys2Proof
end

