-- ==== Sys2Proof/Machine/State.lean ====
section
/-! DEFINITION. The State Bank (10_state.md): the complete tuple of R27 as plain data, the reasons a step can stop, and
the state after CONSTRUCT (R28, R200). -/

namespace Sys2Proof.Machine

/-- `MEM` (R14) as the cells that differ from their contents after CONSTRUCT, in one canonical form (`Memory.wf`):
addresses below 4096, strictly rising, and no cell equal to what an unlisted address reads as (`Memory.background`). -/
abbrev Memory := List Host.Cell

/-- All state the spec gives the machine (R27), and the model's own draw counter. -/
structure State where
  /-- `V[0]` .. `V[15]`, 8 bits each; `V[15]` is `VF` (R10, R11). -/
  v : Vector Byte 16
  /-- `I`, the index register (R12). -/
  i : Word
  /-- `pc`, the program counter: between STEPs the address of the next instruction (R13). -/
  pc : Word
  /-- `MEM`, 4096 bytes (R14). -/
  mem : Memory
  /-- `STACK[0]` .. `STACK[15]`, the return addresses (R15). -/
  stack : Vector Word 16
  /-- `sp`, the count of stack entries in use, 0 to 16 (R16). -/
  sp : Fin 17
  /-- `DT`, the delay timer (R17). -/
  dt : Byte
  /-- `ST`, the sound timer (R18). -/
  st : Byte
  /-- `FB[0]` .. `FB[2047]`, the framebuffer, row-major, 64 wide and 32 high (R19). -/
  fb : Vector Bool 2048
  /-- `CHANGED`, the framebuffer's changed flag (R20). -/
  changed : Bool
  /-- `KEY[0]` .. `KEY[15]`, the input latch (R21). -/
  key : Vector Bool 16
  /-- `WAIT`, the register that waits for a key, if one does (R23). -/
  wait : Option Reg
  /-- `READY`: false is Unloaded, true is Ready (R24). -/
  ready : Bool
  /-- THE MODEL'S OWN, no state of the hardware (R26): how many random bytes have been drawn so far. RND's byte is
  `Config.freeDraw draws` (R132; log entry 1). -/
  draws : Nat
  deriving DecidableEq, Repr

/-- The reasons a step stops with a fault: NONE. "The core raises no synchronous exception, ever" (60_exceptions.md
R170), and every situation that is a fault elsewhere has a defined result, so this type has no constructor. Nobody raises
it, and that is safe as far as the spec's rules go (log entry 5). -/
inductive Fault where
  deriving DecidableEq, Repr

/-- The reasons an operation is refused. -/
inductive Refusal where
  /-- An instruction that has no meaning yet; raised by `exec`'s arm for it. No arm raises it: every instruction has its
  meaning. Safe. -/
  | notModelled (mnemonic : String)
  /-- The error `OversizedProgram`: raised by the host operation LOAD for an image of more than 3584 bytes, and by nothing
  else (R171, R204). No state changes. It is the spec's own rejection; no step raises it. Safe. -/
  | oversizedProgram
  deriving DecidableEq, Repr

/-- What an instruction's meaning, or a host operation, answers. -/
abbrev Result := Host.Outcome State Fault Refusal

/-- The state after CONSTRUCT (R28, R200): everything 0, WAIT none, READY 0 (Unloaded), pc 0x200, and memory with nothing
listed, so that it reads as the font table and zeros (`Memory.background`). `draws` is the model's own field; its value
here is a DESIGN CHOICE (log entry 2). -/
def State.reset : State where
  v := Vector.replicate 16 0#8
  i := 0#16
  pc := Config.pcReset
  mem := []
  stack := Vector.replicate 16 0#16
  sp := 0
  dt := 0#8
  st := 0#8
  fb := Vector.replicate 2048 false
  changed := false
  key := Vector.replicate 16 false
  wait := none
  ready := false
  draws := 0

end Sys2Proof.Machine
end

