-- ==== Sys2Proof/Machine/Memory.lean ====
section
/-! DEFINITION. `MEM` (20_memory.md): the contents after CONSTRUCT, the canonical form, and reading and writing one byte.
The byte is the only unit of access (R40); every address presented to MEM is reduced modulo 4096 (R41). -/

namespace Sys2Proof.Machine

/-- The font table, 16 glyphs of 5 bytes (10_state.md R22). The spec takes the 80 bytes from general knowledge (decision
D8; log entry 13): they are a configuration default, and no statement about the machine names one of them. -/
def fontTable : List Byte :=
  [0xF0, 0x90, 0x90, 0x90, 0xF0] ++ -- 0
  [0x20, 0x60, 0x20, 0x20, 0x70] ++ -- 1
  [0xF0, 0x10, 0xF0, 0x80, 0xF0] ++ -- 2
  [0xF0, 0x10, 0xF0, 0x10, 0xF0] ++ -- 3
  [0x90, 0x90, 0xF0, 0x10, 0x10] ++ -- 4
  [0xF0, 0x80, 0xF0, 0x10, 0xF0] ++ -- 5
  [0xF0, 0x80, 0xF0, 0x90, 0xF0] ++ -- 6
  [0xF0, 0x10, 0x20, 0x40, 0x40] ++ -- 7
  [0xF0, 0x90, 0xF0, 0x90, 0xF0] ++ -- 8
  [0xF0, 0x90, 0xF0, 0x10, 0xF0] ++ -- 9
  [0xF0, 0x90, 0xF0, 0x90, 0x90] ++ -- A
  [0xE0, 0x90, 0xE0, 0x90, 0xE0] ++ -- B
  [0xF0, 0x80, 0x80, 0x80, 0xF0] ++ -- C
  [0xE0, 0x90, 0x90, 0x90, 0xE0] ++ -- D
  [0xF0, 0x80, 0xF0, 0x80, 0xF0] ++ -- E
  [0xF0, 0x80, 0xF0, 0x80, 0x80]    -- F

/-- What an address of MEM that is not listed reads as: its contents after CONSTRUCT, the font table at 0x000..0x04F and
0 everywhere else (R14, R28, R47). -/
def Memory.background (a : Nat) : Byte := fontTable.getD a 0

/-- `EA(addr) = addr mod 4096` (R41; the spec's decision D3, log entry 15). -/
def effAddr (addr : Nat) : Nat := addr % 4096

/-- The cell at a reduced address. -/
def Memory.lookup : Memory → Nat → Byte
  | [], a => Memory.background a
  | (k, c) :: rest, a => if k = a then c else Memory.lookup rest a

/-- The memory with `b` at a reduced address, in canonical form again: writing what an unlisted address reads as takes the
cell out of the list. -/
def Memory.store : Memory → Nat → Byte → Memory
  | [], a, b => if b = Memory.background a then [] else [(a, b)]
  | (k, c) :: rest, a, b =>
    if a < k then (if b = Memory.background a then (k, c) :: rest else (a, b) :: (k, c) :: rest)
    else if a = k then (if b = Memory.background a then rest else (a, b) :: rest)
    else (k, c) :: Memory.store rest a b

/-- The canonical form, of the cells from address `lo` up. -/
def Memory.wfFrom : Nat → Memory → Bool
  | _, [] => true
  | lo, (k, c) :: rest =>
    decide (lo ≤ k) && decide (k < 4096) && c != Memory.background k && Memory.wfFrom (k + 1) rest

/-- The canonical form: addresses strictly rising and below 4096, no cell equal to what an unlisted address reads as. -/
def Memory.wf (m : Memory) : Bool := Memory.wfFrom 0 m

/-- `MemRead(addr, 1)` for any non-negative address (R8, R41). -/
def Memory.read (m : Memory) (addr : Nat) : Byte := Memory.lookup m (effAddr addr)

/-- `MemWrite(addr, 1, b)` for any non-negative address (R8, R41). No address is read-only (R48). -/
def Memory.write (m : Memory) (addr : Nat) (b : Byte) : Memory := Memory.store m (effAddr addr) b

/-- Bytes written at `addr`, `addr + 1`, … in ascending order (R45). -/
def Memory.writeBytes : Memory → Nat → List Byte → Memory
  | m, _, [] => m
  | m, addr, b :: bs => Memory.writeBytes (m.write addr b) (addr + 1) bs

end Sys2Proof.Machine
end

