-- ==== Sys2Proof/Machine/Ops.lean ====
section
/-! DEFINITION. The named operations over the registers, the memory, the stack and the program counter. Every meaning
reads and writes the state through these. This machine takes no exception (60_exceptions.md R170, R174, R175), so there
is no operation that takes one and none that returns from one. -/

namespace Sys2Proof.Machine

/-! ### One accessor per piece of state -/

/-- `V[x]` (R10). No register is hard-wired. -/
def State.reg (s : State) (x : Reg) : Byte := s.v[x.val]

/-- `V[x] <- b` (R10). -/
def State.setReg (s : State) (x : Reg) (b : Byte) : State := { s with v := s.v.set x.val b }

/-- `I <- w` (R12). -/
def State.setI (s : State) (w : Word) : State := { s with i := w }

/-- `DT <- b` (R17). -/
def State.setDT (s : State) (b : Byte) : State := { s with dt := b }

/-- `ST <- b` (R18). -/
def State.setST (s : State) (b : Byte) : State := { s with st := b }

/-- The display after a clear or a draw: its cells, and `CHANGED <- 1`, always (R20, R90, R91). -/
def State.setDisplay (s : State) (cells : Vector Bool 2048) : State := { s with fb := cells, changed := true }

/-- `KEY[k] <- down` (R21, R183, R184). -/
def State.setKey (s : State) (k : Reg) (down : Bool) : State := { s with key := s.key.set k.val down }

/-- `KEY[k]` (R21). -/
def State.keyDown (s : State) (k : Reg) : Bool := s.key[k.val]

/-- `WAIT <- w` (R23). -/
def State.setWait (s : State) (w : Option Reg) : State := { s with wait := w }

/-- `STACK[k]` (R15). -/
def State.stackAt (s : State) (k : Fin 16) : Word := s.stack[k.val]

/-- `MemRead(addr, 1)` (R8, R41). -/
def State.memRead (s : State) (addr : Nat) : Byte := s.mem.read addr

/-- Bytes stored at `addr` and up, in ascending order (R8, R41, R45). -/
def State.memWriteBytes (s : State) (addr : Nat) (bs : List Byte) : State :=
  { s with mem := s.mem.writeBytes addr bs }

/-- `draw8()`: the byte this execution draws (R8, R132; log entry 1). -/
def State.drawnByte (s : State) : Byte := Config.freeDraw s.draws

/-- The draw is used up: the next execution of RND draws another byte. -/
def State.nextDraw (s : State) : State := { s with draws := s.draws + 1 }

/-! ### The program counter -/

/-- `pc <- pc +_16 2`: the advance that closes a STEP (R13, R81, R84; the wrap is the spec's decision D4, log entry 16). -/
def State.advance (s : State) : State := { s with pc := s.pc + 2 }

/-- `Skip()` when the condition holds: an extra 2, the advance still to come (R83). -/
def State.skipIf (s : State) (cond : Bool) : State := if cond then { s with pc := s.pc + 2 } else s

/-- `pc <- target`, which also suppresses the advance (R84). -/
def State.jumpTo (s : State) (target : Word) : State := { s with pc := target }

/-- How every instruction but the four jumps ends: the next state is `s` with the pc advanced (R83, R84). -/
def sequential (s : State) : Result := .next s.advance

/-- How the four jumps end: the pc is the target itself (R84). -/
def jump (s : State) (target : Word) : Result := .next (s.jumpTo target)

/-! ### The call stack -/

/-- The slot CALL writes: `STACK[sp]`, or `STACK[15]` when the stack is full (R102). -/
def pushSlot (sp : Fin 17) : Fin 16 := if h : sp.val < 16 then ⟨sp.val, h⟩ else 15

/-- CALL's push: `sp` saturates at 16, and the 17th call overwrites slot 15 (R16, R102). -/
def State.push (s : State) (ret : Word) : State :=
  { s with
    stack := s.stack.set (pushSlot s.sp).val ret
    sp := if h : s.sp.val < 16 then ⟨s.sp.val + 1, by omega⟩ else s.sp }

/-- The slot RET reads: `STACK[sp-1]`, or `STACK[0]` when the stack is empty (R103; decision D6, log entry 18). -/
def popSlot (sp : Fin 17) : Fin 16 := ⟨sp.val - 1, by omega⟩

/-- RET's pop: `sp` saturates at 0; the entry is not erased (R16, R103). -/
def State.pop (s : State) : State := { s with sp := ⟨s.sp.val - 1, by omega⟩ }

/-! ### Fetch, and when a STEP does nothing -/

/-- Fetch: `MemRead(pc,1) ++ MemRead(pc+1,1)`, both addresses reduced, the pc itself not (R42, R44, R85). -/
def fetchWord (s : State) : Word := s.memRead s.pc.toNat ++ s.memRead (s.pc.toNat + 1)

/-- STEP does nothing while a key-wait is pending or the engine is Unloaded (R80). -/
def State.held (s : State) : Bool := s.wait.isSome || !s.ready

end Sys2Proof.Machine
end

