-- ==== Sys2Proof/Machine/Operands.lean ====
section
/-! DEFINITION. The operand forms: what the machine computes from an operand field or a register before it uses it
(30_encoding.md R63, 41_display.md R91, 45_index_memory.md, 47_input.md R160). -/

namespace Sys2Proof.Machine

/-- `zext_16(nnn)`: the 12-bit operand as a jump target or a value for `I`; never signed or scaled (R63). -/
def zext12 (nnn : Addr12) : Word := nnn.setWidth 16

/-- `zext_16(V[x])` (R63, R101, R141). -/
def zext8 (b : Byte) : Word := b.setWidth 16

/-- `keyidx(v) = min(v, 15)`: a key code above 15 is clamped, not masked (R160; decision D14, log entry 21). -/
def keyIdx (v : Nat) : Reg := ⟨min v 15, by omega⟩

/-- `zext_16(V[x]) * 5`: the address of the glyph; the whole byte is multiplied (R142; decision D22, log entry 22). -/
def glyphAddr (b : Byte) : Word := BitVec.ofNat 16 (b.toNat * 5)

/-- The decimal digits of a byte: hundreds, tens, ones (R143). -/
def bcdDigits (b : Byte) : List Byte :=
  [BitVec.ofNat 8 (b.toNat / 100), BitVec.ofNat 8 (b.toNat / 10 % 10), BitVec.ofNat 8 (b.toNat % 10)]

/-- The bytes of `V[0]`, …, `V[x]`, `x` included (R144). -/
def regBytes (s : State) (x : Reg) : List Byte := s.v.toList.take (x.val + 1)

/-- The index of the cell at column `px` and row `py`, each wrapped: `(py mod 32) * 64 + (px mod 64)` (R19, R91). -/
def cellIndex (px py : Nat) : Fin 2048 := ⟨py % 32 * 64 + px % 64, by omega⟩

/-- Pixel `c` of a sprite row, `c` = 0 the leftmost: bit `7 - c` of its byte (R91; decision D9, log entry 20). -/
def spriteBit (row : Byte) (c : Nat) : Bool := row.getLsbD (7 - c)

end Sys2Proof.Machine
end

