-- ==== Sys2Proof/Machine/ControlFlow.lean ====
section
/-! DEFINITION. The four jumps (42_control_flow.md): the only instructions that suppress the advance (R84). -/

namespace Sys2Proof.Machine

/-- JP nnn (R100). -/
def execJp (nnn : Addr12) (s : State) : Result := jump s (zext12 nnn)

/-- JP V0, nnn (R101). -/
def execJpV0 (nnn : Addr12) (s : State) : Result := jump s (zext12 nnn + zext8 (s.reg 0))

/-- CALL nnn: the return address `pc +_16 2` is pushed (R102; decision D5, log entry 17). -/
def execCall (nnn : Addr12) (s : State) : Result := jump (s.push (s.pc + 2)) (zext12 nnn)

/-- RET: the popped entry is the target (R103; decision D6 for the empty stack, log entry 18). -/
def execRet (s : State) : Result := jump s.pop (s.stackAt (popSlot s.sp))

end Sys2Proof.Machine
end

