-- ==== Sys2Proof/Machine/Flags.lean ====
section
/-! DEFINITION. The flag of the machine is `VF` (10_state.md R11). What each of the six flag writers puts there, each
computed from the operands' old values, and the one order of writes: the result, then the flag. -/

namespace Sys2Proof.Machine

/-- ADD Vx, Vy: 1 on a carry (R126, R130). -/
def carryFlag (a b : Byte) : Byte := if a.toNat + b.toNat > 255 then 1 else 0

/-- SUB and SUBN, of `a - b`: 0 when it borrows, else 1 (R127, R129, R130). -/
def noBorrowFlag (a b : Byte) : Byte := if a.toNat < b.toNat then 0 else 1

/-- SHR: the bit shifted out, 0 or 1 (R128). -/
def shrFlag (a : Byte) : Byte := a &&& 0x01

/-- SHL: the raw bit 7, 0x00 or 0x80, not normalised to 1 (R131). -/
def shlFlag (a : Byte) : Byte := a &&& 0x80

/-- DRW: 1 when a cell went from 1 to 0 (R91). -/
def collisionFlag (coll : Bool) : Byte := if coll then 1 else 0

/-- The order of R11 (c), (d) and R133: `V[x] <- result`, then `VF <- flag`; with `x` = 15 the flag wins. -/
def State.setResultThenFlag (s : State) (x : Reg) (result flag : Byte) : State :=
  (s.setReg x result).setReg VF flag

end Sys2Proof.Machine
end

