-- ==== Sys2Proof/Machine/Display.lean ====
section
/-! DEFINITION. The display instructions CLS and DRW (41_display.md). -/

namespace Sys2Proof.Machine

/-- CLS: every cell 0, `CHANGED <- 1` even if the display was empty; `VF` is not written (R90). -/
def execCls (s : State) : Result := sequential (s.setDisplay (Vector.replicate 2048 false))

/-- The cells of a display under a draw, and whether one of them went from 1 to 0 so far. -/
abbrev Drawing := Vector Bool 2048 × Bool

/-- One sprite bit on one cell: a 1 flips the cell, and a cell that was 1 is a collision; a 0 does nothing (R91). -/
def drawPixel (bit : Bool) (px py : Nat) (d : Drawing) : Drawing :=
  if bit then
    let k := cellIndex px py
    (d.1.set k.val (!d.1[k.val]), d.2 || d.1[k.val])
  else d

/-- One row of the sprite: its eight pixels from column `vx` on, in the screen row `py` (R91). -/
def drawRow (row : Byte) (vx py : Nat) (d : Drawing) : Drawing :=
  (List.range 8).foldl (fun d c => drawPixel (spriteBit row c) (vx + c) py d) d

/-- The sprite: row `r` of it in the screen row `vy + r` (R91). -/
def drawSprite (rows : List Byte) (vx vy : Nat) (d : Drawing) : Drawing :=
  match rows with
  | [] => d
  | row :: rest => drawSprite rest vx (vy + 1) (drawRow row vx vy d)

/-- The `n` bytes of the sprite, from `MEM[EA(I)]` on, top row first (R91, R41). -/
def spriteRows (s : State) (n : Fin 16) : List Byte :=
  (List.range n.val).map (fun r => s.memRead (s.i.toNat + r))

/-- DRW Vx, Vy, n: the coordinates are read before `VF` is written; `VF <- collision`, `CHANGED <- 1`, always (R91). -/
def execDrw (x y : Reg) (n : Fin 16) (s : State) : Result :=
  let d := drawSprite (spriteRows s n) (s.reg x).toNat (s.reg y).toNat (s.fb, false)
  sequential ((s.setDisplay d.1).setReg VF (collisionFlag d.2))

end Sys2Proof.Machine
end

