-- ==== Sys2Proof/Machine/IndexMemory.lean ====
section
/-! DEFINITION. The index and memory instructions (45_index_memory.md): the one addressing mode is `I` plus a small
constant, reduced modulo 4096 (R41); no bulk instruction changes `I`. -/

namespace Sys2Proof.Machine

/-- LD I, nnn (R140). -/
def execLdI (nnn : Addr12) (s : State) : Result := sequential (s.setI (zext12 nnn))

/-- ADD I, Vx: wraps at 16 bits, no flag (R141; decision D13, log entry 19). -/
def execAddI (x : Reg) (s : State) : Result := sequential (s.setI (s.i + zext8 (s.reg x)))

/-- LD F, Vx (R142). -/
def execLdF (x : Reg) (s : State) : Result := sequential (s.setI (glyphAddr (s.reg x)))

/-- LD B, Vx: three digits, hundreds first (R143). -/
def execLdB (x : Reg) (s : State) : Result :=
  sequential (s.memWriteBytes s.i.toNat (bcdDigits (s.reg x)))

/-- LD [I], Vx: the bytes of `V0` .. `Vx` (R144). -/
def execStoreRegs (x : Reg) (s : State) : Result :=
  sequential (s.memWriteBytes s.i.toNat (regBytes s x))

/-- `V0` .. `Vx` from MEM, `V0` first; the registers above keep their values (R145). -/
def State.loadRegs (s : State) (x : Reg) : State :=
  (List.finRange 16).foldl
    (fun t k => if k ≤ x then t.setReg k (s.memRead (s.i.toNat + k.val)) else t) s

/-- LD Vx, [I] (R145). -/
def execLoadRegs (x : Reg) (s : State) : Result := sequential (s.loadRegs x)

end Sys2Proof.Machine
end

