-- ==== Sys2Proof/Machine/Input.lean ====
section
/-! DEFINITION. The input instructions (47_input.md). The latch is sampled at the instant of execution (R161, R162); the
key-wait is armed here and resolved by the host's KEY_DOWN (`Machine.keyPress`, R183). -/

namespace Sys2Proof.Machine

/-- SKP Vx (R161). -/
def execSkp (x : Reg) (s : State) : Result :=
  sequential (s.skipIf (s.keyDown (keyIdx (s.reg x).toNat)))

/-- SKNP Vx (R162). -/
def execSknp (x : Reg) (s : State) : Result :=
  sequential (s.skipIf (!s.keyDown (keyIdx (s.reg x).toNat)))

/-- LD Vx, K: arms the wait for `Vx` and completes, the pc advancing in this same STEP (R163; decision D19, log entry 24). -/
def execLdVxK (x : Reg) (s : State) : Result := sequential (s.setWait (some x))

end Sys2Proof.Machine
end

