-- ==== Sys2Proof/Machine/RegisterOps.lean ====
section
/-! DEFINITION. The register operations (44_register_ops.md): 8-bit unsigned arithmetic that wraps (R130); the five flag
writers compute result and flag from the old operands and write the result first (R133). -/

namespace Sys2Proof.Machine

/-- LD Vx, kk (R120). -/
def execLdByte (x : Reg) (kk : Byte) (s : State) : Result := sequential (s.setReg x kk)

/-- ADD Vx, kk: no flag (R121). -/
def execAddByte (x : Reg) (kk : Byte) (s : State) : Result := sequential (s.setReg x (s.reg x + kk))

/-- LD Vx, Vy (R122). -/
def execLdReg (x y : Reg) (s : State) : Result := sequential (s.setReg x (s.reg y))

/-- OR Vx, Vy: no flag (R123; decision D13, log entry 19). -/
def execOrReg (x y : Reg) (s : State) : Result := sequential (s.setReg x (s.reg x ||| s.reg y))

/-- AND Vx, Vy: no flag (R124; decision D13, log entry 19). -/
def execAndReg (x y : Reg) (s : State) : Result := sequential (s.setReg x (s.reg x &&& s.reg y))

/-- XOR Vx, Vy: no flag (R125; decision D13, log entry 19). -/
def execXorReg (x y : Reg) (s : State) : Result := sequential (s.setReg x (s.reg x ^^^ s.reg y))

/-- ADD Vx, Vy with carry (R126). -/
def execAddReg (x y : Reg) (s : State) : Result :=
  sequential (s.setResultThenFlag x (s.reg x + s.reg y) (carryFlag (s.reg x) (s.reg y)))

/-- SUB Vx, Vy (R127). -/
def execSubReg (x y : Reg) (s : State) : Result :=
  sequential (s.setResultThenFlag x (s.reg x - s.reg y) (noBorrowFlag (s.reg x) (s.reg y)))

/-- SHR Vx: logical, of `Vx`; `y` is ignored (R128; decision D12, log entry 23). -/
def execShr (x _y : Reg) (s : State) : Result :=
  sequential (s.setResultThenFlag x (s.reg x >>> 1) (shrFlag (s.reg x)))

/-- SUBN Vx, Vy (R129). -/
def execSubnReg (x y : Reg) (s : State) : Result :=
  sequential (s.setResultThenFlag x (s.reg y - s.reg x) (noBorrowFlag (s.reg y) (s.reg x)))

/-- SHL Vx: of `Vx`; the flag is the raw bit 7 (R131); `y` is ignored (decision D12, log entry 23). -/
def execShl (x _y : Reg) (s : State) : Result :=
  sequential (s.setResultThenFlag x (s.reg x <<< 1) (shlFlag (s.reg x)))

/-- RND Vx, kk: a free byte AND the mask (R132; decision D11, log entry 1). -/
def execRnd (x : Reg) (kk : Byte) (s : State) : Result :=
  sequential ((s.setReg x (s.drawnByte &&& kk)).nextDraw)

end Sys2Proof.Machine
end

