-- ==== Sys2Proof/Machine/Skip.lean ====
section
/-! DEFINITION. The conditional skips (43_skip.md): an extra 2 on top of the advance when the condition holds (R83). The
skipped word is not fetched. -/

namespace Sys2Proof.Machine

/-- SE Vx, kk (R110). -/
def execSeByte (x : Reg) (kk : Byte) (s : State) : Result := sequential (s.skipIf (s.reg x == kk))

/-- SNE Vx, kk (R111). -/
def execSneByte (x : Reg) (kk : Byte) (s : State) : Result := sequential (s.skipIf (s.reg x != kk))

/-- SE Vx, Vy (R112). -/
def execSeReg (x y : Reg) (s : State) : Result := sequential (s.skipIf (s.reg x == s.reg y))

/-- SNE Vx, Vy (R113). -/
def execSneReg (x y : Reg) (s : State) : Result := sequential (s.skipIf (s.reg x != s.reg y))

end Sys2Proof.Machine
end

