-- ==== Sys2Proof/Machine/System.lean ====
section
/-! DEFINITION. SYS and the words that select no instruction (40_execution_cycle.md R86, R87): the two no-ops. -/

namespace Sys2Proof.Machine

/-- SYS nnn: nothing, then the advance; `nnn` is not used and no machine code is called (R86). -/
def execSys (_nnn : Addr12) (s : State) : Result := sequential s

/-- A word that matches no row: nothing, then the advance (R66, R87). STEP calls this where the decoder rejects. -/
def execUnmatched (s : State) : Result := sequential s

end Sys2Proof.Machine
end

