-- ==== Sys2Proof/Machine/Timers.lean ====
section
/-! DEFINITION. The timer instructions (46_timers.md): copies between a register and a timer. The timers count down on the
host's TICK only (`Machine.tick`). -/

namespace Sys2Proof.Machine

/-- LD Vx, DT (R150). -/
def execLdVxDT (x : Reg) (s : State) : Result := sequential (s.setReg x s.dt)

/-- LD DT, Vx (R151). -/
def execLdDTVx (x : Reg) (s : State) : Result := sequential (s.setDT (s.reg x))

/-- LD ST, Vx (R152). -/
def execLdSTVx (x : Reg) (s : State) : Result := sequential (s.setST (s.reg x))

end Sys2Proof.Machine
end

