-- ==== Sys2Proof/Machine/Step.lean ====
section
/-! DEFINITION. STEP (40_execution_cycle.md R80, R81), the host operation that executes one instruction; and how the host
places one word to be run next. The other host operations are in Machine/HostOps.lean. -/

namespace Sys2Proof.Machine

/-- STEP: nothing at all while held (R80); else fetch, decode, and execute exactly one instruction, or the no-op of R87
where the word selects none (R81, R66). The advance of the pc is the end of each meaning (`sequential`, `jump`), since
R84's latch is local to the STEP (R25). -/
def step (s : State) : Host.Outcome State Fault Refusal :=
  if s.held then .next s
  else
    match decodeWord (fetchWord s) with
    | .ok i => exec i s
    | .error _ => execUnmatched s

/-- `s` with the table's word placed where the next STEP fetches: its two bytes at `EA(pc)` and `EA(pc+1)` (R42, R44).
After reset the engine is Unloaded and STEP does nothing, so this stands for the host's LOAD as well: `READY <- 1`, and no
key-wait is pending (R80, R203; log entry 3). -/
def State.withFetchWord (s : State) (nbits w : Nat) : State :=
  { s.memWriteBytes s.pc.toNat [highByte (tableWord nbits w), lowByte (tableWord nbits w)] with
    ready := true
    wait := none }

end Sys2Proof.Machine
end

