-- ==== Sys2Proof/Machine/HostOps.lean ====
section
/-! DEFINITION. The host operations (00_scope.md R6; 60_exceptions.md R180 to R189; 70_reset_and_hazards.md R200 to R207):
what the outside world can do to the machine between two STEPs. Each is atomic and they are totally ordered (R5, R6,
R173), so a run is a list of them (`Sys2Proof.Machine.HostOp`), in whatever order the host chooses (R182, R211). -/

namespace Sys2Proof.Machine

/-- A timer's count-down by one, floored at 0 (R17, R18, R180). -/
def countDown (b : Byte) : Byte := if b = 0 then 0 else b - 1

/-- TICK: both timers, and nothing else, in every state (R180, R181). -/
def tick (s : State) : State := { s with dt := countDown s.dt, st := countDown s.st }

/-- KEY_DOWN(k): the latch always; and a pending key-wait is resolved in this same operation (R183; log entries 21, 25). -/
def keyPress (k : Nat) (s : State) : State :=
  match s.wait with
  | none => s.setKey (keyIdx k) true
  | some r => (((s.setKey (keyIdx k) true).setReg r (BitVec.ofNat 8 (keyIdx k).val)).setWait none)

/-- KEY_UP(k): the latch and nothing else (R184). -/
def keyRelease (k : Nat) (s : State) : State := s.setKey (keyIdx k) false

/-- FB_ACK: `CHANGED <- 0` (R188; decision D15, log entry 26). -/
def fbAck (s : State) : State := { s with changed := false }

/-- LOAD(bytes) of an image that fits: its bytes at 0x200 and up, `READY <- 1`, nothing else (R203). -/
def loadImage (image : List Byte) (s : State) : State :=
  { s.memWriteBytes Config.progBase image with ready := true }

/-- LOAD(bytes): rejected with no state change when the image is longer than 3584 bytes (R203, R204). -/
def load (image : List Byte) (s : State) : Result :=
  if image.length ≤ Config.progMax then .next (loadImage image s) else .refused .oversizedProgram

/-- RESTART: everything but MEM and READY is zeroed, `pc <- 0x200`, a pending key-wait ends without a register written
(R205). The draw counter is the model's own and goes on (log entry 2). -/
def restart (s : State) : State := { State.reset with mem := s.mem, ready := s.ready, draws := s.draws }

/-- CONSTRUCT: the state of R28 (R200). The draw counter is the model's own and goes on (log entry 2). -/
def construct (s : State) : State := { State.reset with draws := s.draws }

/-- UNLOAD: exactly the state after CONSTRUCT, the font table restored (R206; decision D16, log entry 27). -/
def unload (s : State) : State := { State.reset with draws := s.draws }

/-! ### What the host reads -/

/-- The outputs of the contract (R187): the display's cells, the changed flag, and the sound timer. -/
structure Outputs where
  fb : Vector Bool 2048
  changed : Bool
  soundTimer : Byte
  deriving DecidableEq, Repr

/-- What a read of FB, CHANGED and ST gives; reading changes nothing (R187). -/
def readOutputs (s : State) : Outputs := { fb := s.fb, changed := s.changed, soundTimer := s.st }

/-- The sound line: audible while `ST` > 0, with no minimum (R18, R152, R187). -/
def Outputs.audible (o : Outputs) : Bool := decide (0 < o.soundTimer.toNat)

/-- What a debug read asks for: a register, `I`, `pc`, `sp`, a stack entry, a timer, or a byte of MEM (R189). -/
inductive DebugRead where
  | reg (x : Reg)
  | index
  | pc
  | sp
  | stack (k : Fin 16)
  | delayTimer
  | soundTimer
  | mem (addr : Nat)
  deriving DecidableEq, Repr

/-- The number a debug read gives; it changes nothing (R189). -/
def debugRead (s : State) : DebugRead → Nat
  | .reg x => (s.reg x).toNat
  | .index => s.i.toNat
  | .pc => s.pc.toNat
  | .sp => s.sp.val
  | .stack k => (s.stackAt k).toNat
  | .delayTimer => s.dt.toNat
  | .soundTimer => s.st.toNat
  | .mem addr => (s.memRead addr).toNat

/-! ### One step relation, indexed by the host operation (R5) -/

/-- The host operations of R6. -/
inductive HostOp where
  /-- CONSTRUCT (R200). -/
  | construct
  /-- LOAD(bytes) (R203, R204). -/
  | load (image : List Byte)
  /-- RESTART (R205). -/
  | restart
  /-- UNLOAD (R206). -/
  | unload
  /-- STEP (R80, R81). -/
  | step
  /-- TICK (R180). -/
  | tick
  /-- KEY_DOWN(k), any key code (R183). -/
  | keyDown (k : Nat)
  /-- KEY_UP(k), any key code (R184). -/
  | keyUp (k : Nat)
  /-- A read of FB, CHANGED and ST (R187); its value is `readOutputs`. -/
  | readOutputs
  /-- FB_ACK (R188). -/
  | fbAck
  /-- A debug read (R189); its value is `debugRead`. -/
  | debugRead (what : DebugRead)
  deriving DecidableEq, Repr

/-- What one host operation does. -/
def HostOp.apply (op : HostOp) (s : State) : Result :=
  match op with
  | .construct => .next (Sys2Proof.Machine.construct s)
  | .load image => Sys2Proof.Machine.load image s
  | .restart => .next (Sys2Proof.Machine.restart s)
  | .unload => .next (Sys2Proof.Machine.unload s)
  | .step => Sys2Proof.Machine.step s
  | .tick => .next (Sys2Proof.Machine.tick s)
  | .keyDown k => .next (keyPress k s)
  | .keyUp k => .next (keyRelease k s)
  | .readOutputs => .next s
  | .fbAck => .next (Sys2Proof.Machine.fbAck s)
  | .debugRead _ => .next s

/-- The machine's state after one host operation: a rejected operation leaves it as it was (R204). -/
def HostOp.after (op : HostOp) (s : State) : State :=
  match op.apply s with
  | .next t => t
  | .fault _ => s
  | .refused _ => s

/-- The machine's state after a sequence of host operations (R5, R6). -/
def runOps : List HostOp → State → State
  | [], s => s
  | op :: rest, s => runOps rest (op.after s)

end Sys2Proof.Machine
end

