-- ==== Sys2Proof/Safety.lean ====
section
/-! DEFINITION. What claims call a good state and a safe run: the invariants that the types of State do not
hold, and that no operation stops the machine (60_exceptions.md R170). -/

namespace Sys2Proof.Machine

/-- The two invariants that the types of State do not hold already. MEM is in its canonical form: the model's own, for the
array of R14 held as a list (log entry 4, DEDUCED), not R29's. A key-wait is pending only while the engine is Ready: R29,
which marks it derived. (R29's bounds on `sp`, on the widths and on a waiting register's number are held by the types, log
entry 9.) -/
abbrev State.Inv (s : State) : Prop := Memory.wf s.mem = true ∧ (s.wait ≠ none → s.ready = true)

/-- A state that some sequence of host operations reaches from the state after CONSTRUCT. -/
def Reachable (s : State) : Prop := ∃ ops : List HostOp, s = runOps ops State.reset

/-- An operation completes: it answers a next state, and neither stops nor is refused. -/
def Completes (r : Result) : Prop := ∃ t : State, r = .next t

end Sys2Proof.Machine
end

