-- ==== Sys2Proof/Certificates/Slice0/Obligations.lean ====
section
/-! DEFINITION. The statements for the provers. A statement about an instruction says, as its conclusion, that `exec`
answers a next state from every state and every operand that meet its hypotheses, what that state holds, and its frame:
everything else is as before. Where a clause rests on a decision that the spec marks as its own (D<n> of
92_eei_decisions.md), the docstring says so. -/

namespace Sys2Proof.Claims

open Sys2Proof.Machine

/-- The pieces of state of R27 beside the V registers and the pc, and the model's own draw counter. -/
inductive Part where
  | index
  | memory
  | stack
  | delayTimer
  | soundTimer
  | display
  | keys
  | wait
  | ready
  | draws
  deriving DecidableEq, Repr

/-- One piece of state is the same in `t` as in `s`; memory by reading every one of its bytes. -/
def Same (p : Part) (s t : State) : Prop :=
  match p with
  | .index => t.i = s.i
  | .memory => ∀ a, t.memRead a = s.memRead a
  | .stack => t.sp = s.sp ∧ ∀ k, t.stackAt k = s.stackAt k
  | .delayTimer => t.dt = s.dt
  | .soundTimer => t.st = s.st
  | .display => t.fb = s.fb ∧ t.changed = s.changed
  | .keys => ∀ k, t.keyDown k = s.keyDown k
  | .wait => t.wait = s.wait
  | .ready => t.ready = s.ready
  | .draws => t.draws = s.draws

/-- The frame: nothing but the listed pieces of state, the listed V registers and the pc differs from `s` to `t`. -/
def KeepsAllBut (parts : List Part) (regs : List Reg) (s t : State) : Prop :=
  (∀ p, p ∉ parts → Same p s t) ∧ ∀ r, r ∉ regs → t.reg r = s.reg r

/-- The pc has moved on by `k`, wherever that needs no wrap at 2^16. What happens at a wrap is the spec's decision D4, and
`Obligations.EveryPcMoveWrapsAt16Bits` says it for every instruction. -/
def MovesBy (k : Nat) (s t : State) : Prop := s.pc.toNat + k < 65536 → t.pc.toNat = s.pc.toNat + k

/-- The pixel at column `col` and row `row` is on: cell `row * 64 + col` (R19). -/
def PixelOn (s : State) (col row : Nat) : Prop := s.fb[row * 64 + col]? = some true

/-- DRW Vx, Vy, n has a 1 bit for the pixel at column `col` and row `row`: some pixel `c` of some row `r` of the sprite
is a 1 and falls there, each coordinate wrapped (R91). -/
def SpriteCovers (s : State) (x y : Reg) (n : Fin 16) (col row : Nat) : Prop :=
  ∃ r c : Nat, r < n.val ∧ c < 8 ∧ ((s.reg x).toNat + c) % 64 = col ∧ ((s.reg y).toNat + r) % 32 = row ∧
    (s.memRead (s.i.toNat + r)).getLsbD (7 - c) = true

/-- The instructions that write `VF` as a flag: "exactly six" (R11). -/
def writesFlag : Instr → Bool
  | .addReg _ _ => true
  | .subReg _ _ => true
  | .shr _ _ => true
  | .subnReg _ _ => true
  | .shl _ _ => true
  | .drw _ _ _ => true
  | _ => false

/-- `r` is an ordinary destination register of the instruction. -/
def IsDestination (r : Reg) : Instr → Prop
  | .ldByte x _ => r = x
  | .addByte x _ => r = x
  | .ldReg x _ => r = x
  | .orReg x _ => r = x
  | .andReg x _ => r = x
  | .xorReg x _ => r = x
  | .addReg x _ => r = x
  | .subReg x _ => r = x
  | .shr x _ => r = x
  | .subnReg x _ => r = x
  | .shl x _ => r = x
  | .rnd x _ => r = x
  | .ldVxDT x => r = x
  | .loadRegs x => r ≤ x
  | _ => False

/-- The four instructions that perform an explicit jump (R84). -/
def isJump : Instr → Bool
  | .jp _ => true
  | .jpV0 _ => true
  | .call _ => true
  | .ret => true
  | _ => false

/-- The instruction is one of the six conditional skips and its condition holds (R83, R110 to R113, R161, R162). -/
def SkipIsTaken (s : State) : Instr → Prop
  | .seByte x kk => s.reg x = kk
  | .sneByte x kk => s.reg x ≠ kk
  | .seReg x y => s.reg x = s.reg y
  | .sneReg x y => s.reg x ≠ s.reg y
  | .skp x => ∃ k : Reg, k.val = min (s.reg x).toNat 15 ∧ s.keyDown k = true
  | .sknp x => ∃ k : Reg, k.val = min (s.reg x).toNat 15 ∧ s.keyDown k = false
  | _ => False

/-- Instructions executed one after another, each on the state the one before it left. -/
def execAll : List Instr → State → Option State
  | [], s => some s
  | i :: rest, s =>
    match exec i s with
    | .next t => execAll rest t
    | .fault _ => none
    | .refused _ => none

/-- The address the `k`-th of a chain of CALLs returns to, counting from 0: the first is executed at the pc of `s`, each
later one at the target of the one before it; the return address is 2 further (R102, R104). -/
def returnAddress (s : State) (targets : List Addr12) : Nat → Word
  | 0 => s.pc + 2
  | k + 1 => (targets.getD k 0).setWidth 16 + 2

end Sys2Proof.Claims

open Sys2Proof Sys2Proof.Machine Sys2Proof.Claims

/-! ### Encoding -/

/-- One word of each family, its bits written out from the patterns of R64, decodes to the instruction it stands for.
The patterns but `0nnn` and `Fx0A` are the spec's decision D1. -/
def Obligations.SampleWordsDecode : Prop :=
  decodeWord 0b0000000011100000#16 = .ok .cls ∧
  decodeWord 0b0000001000110100#16 = .ok (.sys 0x234#12) ∧
  decodeWord 0b0010001100000000#16 = .ok (.call 0x300#12) ∧
  decodeWord 0b0100001000110011#16 = .ok (.sneByte 2 0x33#8) ∧
  decodeWord 0b1000111100010101#16 = .ok (.subReg 15 1) ∧
  decodeWord 0b1101000100100101#16 = .ok (.drw 1 2 5) ∧
  decodeWord 0b1111000100011110#16 = .ok (.addI 1) ∧
  decodeWord 0b1111001100010101#16 = .ok (.ldDTVx 3) ∧
  decodeWord 0b1110000110011110#16 = .ok (.skp 1) ∧
  decodeWord 0b1111010100001010#16 = .ok (.ldVxK 5)

/-- Every well-formed instruction, with every operand at every value, is read back from its word. -/
def Obligations.DecodeOfEncodeIsTheInstruction : Prop :=
  ∀ i : Instr, i.wf = true → decodeWord (encode i) = .ok i

/-- Every word that decodes is the word of the instruction it decodes to, and that instruction is well-formed: a word has
one meaning and no bit of it is dropped. -/
def Obligations.EncodeOfDecodeIsTheWord : Prop :=
  ∀ (w : Word) (i : Instr), decodeWord w = .ok i → i.wf = true ∧ encode i = w

/-- A word that decodes to an instruction agrees with the mask and the match of that instruction's row of R64 (patterns:
the spec's decision D1; exact match: D2). -/
def Obligations.DecodedWordMatchesItsRow : Prop :=
  ∀ (w : Word) (i : Instr), decodeWord w = .ok i → w &&& (opcodeRow i).1 = (opcodeRow i).2

/-- The words that select no instruction are exactly those of the table of R66 (which words they are rests on the spec's
decisions D1 and D2). -/
def Obligations.UnmatchedWordsAreExactlyTheListed : Prop :=
  ∀ w : Word, (∃ r, decodeWord w = .error r) ↔
    ((w.toNat / 4096 = 0x5 ∧ w.toNat % 16 ≠ 0) ∨
     (w.toNat / 4096 = 0x8 ∧ w.toNat % 16 ∈ [0x8, 0x9, 0xA, 0xB, 0xC, 0xD, 0xF]) ∨
     (w.toNat / 4096 = 0x9 ∧ w.toNat % 16 ≠ 0) ∨
     (w.toNat / 4096 = 0xE ∧ w.toNat % 256 ∉ [0x9E, 0xA1]) ∨
     (w.toNat / 4096 = 0xF ∧ w.toNat % 256 ∉ [0x07, 0x0A, 0x15, 0x18, 0x1E, 0x29, 0x33, 0x55, 0x65]))

/-! ### STEP -/

/-- Not held, and the two bytes at the pc (the first the more significant, both addresses reduced modulo 4096: decisions
D3, D4) decode to an instruction: STEP is `exec` of it at that state. The advance of the pc is part of `exec`. -/
def Obligations.StepRunsTheDecodedInstruction : Prop :=
  ∀ (s : State) (hi lo : Byte) (i : Instr), s.wait = none → s.ready = true →
    s.memRead (s.pc.toNat % 4096) = hi → s.memRead ((s.pc.toNat + 1) % 4096) = lo →
    decodeBytes [hi, lo] = .ok (i, []) → step s = exec i s

/-- The word the host places is the one the next STEP runs, from any state whose memory is in canonical form (the model's
stand-in for LOAD, log entry 3). -/
def Obligations.PlacedWordIsRunNext : Prop :=
  ∀ (s : State) (w : Nat) (i : Instr), Memory.wf s.mem = true → w < 65536 → decodeTableWord 16 w = some i →
    step (s.withFetchWord 16 w) = exec i (s.withFetchWord 16 w)

/-- While a key-wait is pending, or while Unloaded (the spec's decision D17), any number of STEPs changes nothing. -/
def Obligations.HeldStepsChangeNothing : Prop :=
  ∀ (s : State) (k : Nat), ((∃ r, s.wait = some r) ∨ s.ready = false) → Host.Core.run core k s = .next s

/-- A word that selects no instruction is executed by STEP as a no-op: the pc advances by 2 (modulo 2^16: decision D4) and
nothing else changes. -/
def Obligations.UnmatchedWordIsANoOp : Prop :=
  ∀ (s : State) (r : DecodeReject), s.wait = none → s.ready = true → decodeWord (fetchWord s) = .error r →
    ∃ t, step s = .next t ∧ t.pc = s.pc + 2 ∧ KeepsAllBut [] [] s t

/-- STEP never faults and never refuses: from any state it has exactly one outcome, a next state. -/
def Obligations.StepAlwaysCompletes : Prop := ∀ s : State, Completes (step s)

/-- The one error the machine can report is the rejection of LOAD of an image longer than 3584 bytes: every host operation
on every state completes but for that one. (That such a LOAD IS rejected, with no state changed, is `OversizedLoadIsRejected`.
That STEP and RESTART complete while Unloaded is the spec's decision D17, log entry 28.) -/
def Obligations.OnlyOversizedLoadIsRefused : Prop :=
  ∀ (op : HostOp) (s : State),
    Completes (op.apply s) ∨
      ∃ image, op = .load image ∧ 3584 < image.length ∧ op.apply s = .refused .oversizedProgram

/-- Every instruction but the four jumps moves the pc by 4 when it is a skip whose condition holds and by 2 otherwise, modulo
2^16 at every pc: a skip at 0xFFFE ends at 0x0002 taken and at 0x0000 not taken (the wrap is the spec's decision D4, the
key clamp D14). -/
def Obligations.EveryPcMoveWrapsAt16Bits : Prop :=
  ∀ (i : Instr) (s t : State), isJump i = false → exec i s = .next t →
    (SkipIsTaken s i → t.pc = s.pc + 4) ∧ (¬ SkipIsTaken s i → t.pc = s.pc + 2)

/-- A jump to its own address leaves the whole state as it is. -/
def Obligations.JumpToItselfIsAFixedPoint : Prop :=
  ∀ (s : State) (nnn : Addr12), s.wait = none → s.ready = true →
    decodeWord (fetchWord s) = .ok (.jp nnn) → s.pc.toNat = nnn.toNat → step s = .next s

/-- STEP depends on the random draw only when the word is that of RND: with any other word, another draw gives the same
next state. -/
def Obligations.OnlyRndDependsOnTheDraw : Prop :=
  ∀ (s t : State) (d : Nat), (∀ x kk, decodeWord (fetchWord s) ≠ .ok (.rnd x kk)) → step s = .next t →
    step { s with draws := d } = .next { t with draws := d }

/-! ### No-ops and display -/

/-- SYS nnn changes nothing but the pc, for every nnn. -/
def Obligations.SysIsANoOp : Prop :=
  ∀ (nnn : Addr12) (s : State),
    ∃ t, exec (.sys nnn) s = .next t ∧ MovesBy 2 s t ∧ KeepsAllBut [] [] s t

/-- CLS turns every cell off and raises the changed flag, whatever the display held, and touches nothing else, `VF`
included (that `VF` is not written is marked derived in R90). -/
def Obligations.ClsClearsTheDisplay : Prop :=
  ∀ s : State,
    ∃ t, exec .cls s = .next t ∧ (∀ col row, ¬ PixelOn t col row) ∧ t.changed = true ∧ MovesBy 2 s t ∧
      KeepsAllBut [.display] [] s t

/-- DRW XORs the sprite onto the display with wraparound on both axes: a pixel differs from before exactly when the sprite
has a 1 bit there; `VF` is 1 when such a pixel was on, else 0; the changed flag is raised; nothing else changes. (Bit 7 is
the leftmost pixel and byte r is row Vy + r: decision D9; addresses from 0x1000 up wrap: D3; the pc at a wrap: D4.) -/
def Obligations.DrwXorsTheSprite : Prop :=
  ∀ (x y : Reg) (n : Fin 16) (s : State),
    ∃ t, exec (.drw x y n) s = .next t ∧
      (∀ col row, col < 64 → row < 32 →
        (PixelOn t col row ↔ ¬ (PixelOn s col row ↔ SpriteCovers s x y n col row))) ∧
      ((∃ col row, PixelOn s col row ∧ col < 64 ∧ row < 32 ∧ SpriteCovers s x y n col row) → t.reg VF = 1) ∧
      ((¬ ∃ col row, PixelOn s col row ∧ col < 64 ∧ row < 32 ∧ SpriteCovers s x y n col row) → t.reg VF = 0) ∧
      t.changed = true ∧ t.pc = s.pc + 2 ∧ KeepsAllBut [.display] [VF] s t

/-- Drawing the same sprite at the same coordinates twice restores the framebuffer, and the second draw reports a
collision exactly when the first turned some pixel on. (The coordinates are the same for the second draw because neither
is held in `VF`, which the first one writes; `DrwXorsTheSprite` covers those forms.) -/
def Obligations.DrwTwiceRestoresTheDisplay : Prop :=
  ∀ (x y : Reg) (n : Fin 16) (s : State), x ≠ VF → y ≠ VF →
    ∃ t u, exec (.drw x y n) s = .next t ∧ exec (.drw x y n) t = .next u ∧ u.fb = s.fb ∧
      ((∃ col row, col < 64 ∧ row < 32 ∧ PixelOn t col row ∧ ¬ PixelOn s col row) → u.reg VF = 1) ∧
      ((¬ ∃ col row, col < 64 ∧ row < 32 ∧ PixelOn t col row ∧ ¬ PixelOn s col row) → u.reg VF = 0)

/-- The framebuffer is written by CLS and DRW only, and read by no instruction but DRW: for any other instruction, another
content of it makes no difference to any other state; for DRW, only to the framebuffer and to the collision flag. -/
def Obligations.FramebufferIsReadOnlyByDrw : Prop :=
  ∀ (i : Instr) (s t : State) (cells : Vector Bool 2048), exec i s = .next t →
    (i ≠ .cls → (∀ x y n, i ≠ .drw x y n) → t.fb = s.fb) ∧
    ((∀ x y n, i ≠ .drw x y n) →
      ∃ cells', exec i { s with fb := cells } = .next { t with fb := cells' }) ∧
    ∃ cells' flag, exec i { s with fb := cells } = .next ({ t with fb := cells' }.setReg VF flag)

/-! ### Control flow -/

/-- JP nnn sets the pc to nnn and changes nothing else: no advance is added. -/
def Obligations.JpSetsThePc : Prop :=
  ∀ (nnn : Addr12) (s : State),
    ∃ t, exec (.jp nnn) s = .next t ∧ t.pc.toNat = nnn.toNat ∧ KeepsAllBut [] [] s t

/-- JP V0, nnn sets the pc to nnn + V0, unreduced (at most 0x10FE), and changes nothing else. -/
def Obligations.JpV0AddsV0 : Prop :=
  ∀ (nnn : Addr12) (s : State),
    ∃ t, exec (.jpV0 nnn) s = .next t ∧ t.pc.toNat = nnn.toNat + (s.reg 0).toNat ∧ t.pc.toNat ≤ 0x10FE ∧
      KeepsAllBut [] [] s t

/-- CALL nnn pushes the address of the next instruction and jumps; with 16 entries on the stack it overwrites entry 15 and
`sp` stays 16. (What is pushed is the spec's decision D5; the counting `sp` is D6; the pc's wrap is D4.) -/
def Obligations.CallPushesTheReturnAddress : Prop :=
  ∀ (nnn : Addr12) (s : State),
    ∃ t, exec (.call nnn) s = .next t ∧ t.pc.toNat = nnn.toNat ∧
      (s.sp.val < 16 → t.sp.val = s.sp.val + 1 ∧
        ∀ k, t.stackAt k = if k.val = s.sp.val then s.pc + 2 else s.stackAt k) ∧
      (s.sp.val = 16 → t.sp.val = 16 ∧ ∀ k, t.stackAt k = if k.val = 15 then s.pc + 2 else s.stackAt k) ∧
      KeepsAllBut [.stack] [] s t

/-- RET jumps to the most recent entry and takes it off; on an empty stack it jumps to entry 0 and `sp` stays 0 (the
spec's decision D6). No entry is erased. -/
def Obligations.RetPopsTheReturnAddress : Prop :=
  ∀ s : State,
    ∃ t, exec .ret s = .next t ∧
      (∀ k : Fin 16, s.sp.val = k.val + 1 → t.sp.val = k.val ∧ t.pc = s.stackAt k) ∧
      (s.sp.val = 0 → t.sp.val = 0 ∧ t.pc = s.stackAt 0) ∧
      (∀ k, t.stackAt k = s.stackAt k) ∧ KeepsAllBut [.stack] [] s t

/-- 17 CALLs from an empty stack, then RETs: the 17th CALL overwrites slot 15; the RETs return to r17, r15, r14, …, r1, and
the 17th, on the empty stack, to r1 again (rests on the spec's decisions D5 and D6). -/
def Obligations.SeventeenCallsThenReturns : Prop :=
  ∀ (s : State) (targets : List Addr12), s.sp.val = 0 → targets.length = 17 →
    ∃ t, execAll (targets.map .call) s = some t ∧ t.sp.val = 16 ∧
      (∀ k : Fin 16, k.val < 15 → t.stackAt k = returnAddress s targets k.val) ∧
      t.stackAt 15 = returnAddress s targets 16 ∧
      ∀ j, 1 ≤ j → j ≤ 17 →
        ∃ u, execAll (List.replicate j .ret) t = some u ∧ u.sp.val = 16 - j ∧
          u.pc = if j = 1 then returnAddress s targets 16 else returnAddress s targets (16 - j)

/-! ### Skips -/

/-- SE Vx, kk skips exactly when Vx is kk, SNE Vx, kk exactly when it is not; neither writes anything but the pc. -/
def Obligations.SkipsOnAByte : Prop :=
  ∀ (x : Reg) (kk : Byte) (s : State),
    (∃ t, exec (.seByte x kk) s = .next t ∧ (s.reg x = kk → MovesBy 4 s t) ∧ (s.reg x ≠ kk → MovesBy 2 s t) ∧
      KeepsAllBut [] [] s t) ∧
    (∃ t, exec (.sneByte x kk) s = .next t ∧ (s.reg x ≠ kk → MovesBy 4 s t) ∧ (s.reg x = kk → MovesBy 2 s t) ∧
      KeepsAllBut [] [] s t)

/-- SE Vx, Vy skips exactly when the registers are equal, SNE Vx, Vy exactly when they are not; neither writes anything
but the pc. -/
def Obligations.SkipsOnARegister : Prop :=
  ∀ (x y : Reg) (s : State),
    (∃ t, exec (.seReg x y) s = .next t ∧ (s.reg x = s.reg y → MovesBy 4 s t) ∧
      (s.reg x ≠ s.reg y → MovesBy 2 s t) ∧ KeepsAllBut [] [] s t) ∧
    (∃ t, exec (.sneReg x y) s = .next t ∧ (s.reg x ≠ s.reg y → MovesBy 4 s t) ∧
      (s.reg x = s.reg y → MovesBy 2 s t) ∧ KeepsAllBut [] [] s t)

/-! ### Register operations -/

/-- LD Vx, kk and LD Vx, Vy: the destination, for every register, `VF` included; nothing else but the pc. -/
def Obligations.LoadsOfARegister : Prop :=
  ∀ (x y : Reg) (kk : Byte) (s : State),
    (∃ t, exec (.ldByte x kk) s = .next t ∧ t.reg x = kk ∧ MovesBy 2 s t ∧ KeepsAllBut [] [x] s t) ∧
    (∃ t, exec (.ldReg x y) s = .next t ∧ t.reg x = s.reg y ∧ MovesBy 2 s t ∧ KeepsAllBut [] [x] s t)

/-- ADD Vx, kk wraps modulo 256 and defines no flag: `VF` is as before unless it is Vx. -/
def Obligations.AddByteWrapsWithoutFlag : Prop :=
  ∀ (x : Reg) (kk : Byte) (s : State),
    ∃ t, exec (.addByte x kk) s = .next t ∧ (t.reg x).toNat = ((s.reg x).toNat + kk.toNat) % 256 ∧ MovesBy 2 s t ∧
      KeepsAllBut [] [x] s t

/-- OR, AND, XOR: the bitwise result in Vx; no flag is written (the spec's decision D13); nothing else but the pc (its
wrap: D4). -/
def Obligations.BitwiseOpsWriteNoFlag : Prop :=
  ∀ (x y : Reg) (s : State),
    (∃ t, exec (.orReg x y) s = .next t ∧ (∀ b, (t.reg x).getLsbD b = ((s.reg x).getLsbD b || (s.reg y).getLsbD b)) ∧
      t.pc = s.pc + 2 ∧ KeepsAllBut [] [x] s t) ∧
    (∃ t, exec (.andReg x y) s = .next t ∧ (∀ b, (t.reg x).getLsbD b = ((s.reg x).getLsbD b && (s.reg y).getLsbD b)) ∧
      t.pc = s.pc + 2 ∧ KeepsAllBut [] [x] s t) ∧
    (∃ t, exec (.xorReg x y) s = .next t ∧ (∀ b, (t.reg x).getLsbD b = ((s.reg x).getLsbD b ^^ (s.reg y).getLsbD b)) ∧
      t.pc = s.pc + 2 ∧ KeepsAllBut [] [x] s t)

/-- ADD, SUB and SUBN Vx, Vy: the wrapped result in Vx unless x is 15, and always the flag of the OLD operands in `VF`:
1 on a carry for ADD, 0 on a borrow and 1 on none for SUB and SUBN. With x = 15 the flag wins. -/
def Obligations.AddAndSubtractWithFlag : Prop :=
  ∀ (x y : Reg) (s : State),
    (∃ t, exec (.addReg x y) s = .next t ∧
      (x ≠ VF → (t.reg x).toNat = ((s.reg x).toNat + (s.reg y).toNat) % 256) ∧
      t.reg VF = (if (s.reg x).toNat + (s.reg y).toNat > 255 then 1 else 0) ∧
      MovesBy 2 s t ∧ KeepsAllBut [] [x, VF] s t) ∧
    (∃ t, exec (.subReg x y) s = .next t ∧
      (x ≠ VF → ((t.reg x).toNat + (s.reg y).toNat) % 256 = (s.reg x).toNat) ∧
      t.reg VF = (if (s.reg x).toNat < (s.reg y).toNat then 0 else 1) ∧
      MovesBy 2 s t ∧ KeepsAllBut [] [x, VF] s t) ∧
    (∃ t, exec (.subnReg x y) s = .next t ∧
      (x ≠ VF → ((t.reg x).toNat + (s.reg x).toNat) % 256 = (s.reg y).toNat) ∧
      t.reg VF = (if (s.reg y).toNat < (s.reg x).toNat then 0 else 1) ∧
      MovesBy 2 s t ∧ KeepsAllBut [] [x, VF] s t)

/-- SHR and SHL Vx, whatever y is: the shifted Vx unless x is 15, and always the bit shifted out in `VF`, taken from the
old Vx: bit 0 as 0 or 1 for SHR, bit 7 as the raw 0x00 or 0x80 for SHL. (That the operand is Vx and that with x = 15 the
flag wins is the spec's decision D12; the pc's wrap is D4.) -/
def Obligations.ShiftsPutTheLostBitInVF : Prop :=
  ∀ (x y : Reg) (s : State),
    (∃ t, exec (.shr x y) s = .next t ∧ (x ≠ VF → (t.reg x).toNat = (s.reg x).toNat / 2) ∧
      (t.reg VF).toNat = (s.reg x).toNat % 2 ∧ t.pc = s.pc + 2 ∧ KeepsAllBut [] [x, VF] s t) ∧
    (∃ t, exec (.shl x y) s = .next t ∧ (x ≠ VF → (t.reg x).toNat = (s.reg x).toNat * 2 % 256) ∧
      (t.reg VF).toNat = (if (s.reg x).toNat ≥ 128 then 0x80 else 0) ∧ t.pc = s.pc + 2 ∧
      KeepsAllBut [] [x, VF] s t)

/-- RND Vx, kk: Vx is this execution's draw AND kk, so every bit that is 0 in kk is 0; the draw is used up. The draw
`Config.freeDraw s.draws` is a free value (decision D11; log entry 1): the statement holds for every value of it. -/
def Obligations.RndMasksAFreeByte : Prop :=
  ∀ (x : Reg) (kk : Byte) (s : State),
    ∃ t, exec (.rnd x kk) s = .next t ∧ t.reg x = Config.freeDraw s.draws &&& kk ∧
      (∀ b, kk.getLsbD b = false → (t.reg x).getLsbD b = false) ∧ t.draws = s.draws + 1 ∧ t.pc = s.pc + 2 ∧
      KeepsAllBut [.draws] [x] s t

/-- `VF` is written as a flag by exactly six instructions; every other one leaves it alone unless it is an ordinary
destination; and the flag is 0 or 1, but 0x00 or 0x80 after SHL (marked derived in R11; see also decisions D12, D13). -/
def Obligations.SixInstructionsWriteTheFlag : Prop :=
  ∀ (i : Instr) (s t : State), exec i s = .next t →
    (writesFlag i = false → ¬ IsDestination VF i → t.reg VF = s.reg VF) ∧
    (writesFlag i = true → (∀ x y, i ≠ .shl x y) → t.reg VF = 0 ∨ t.reg VF = 1) ∧
    (∀ x y, i = .shl x y → t.reg VF = 0 ∨ t.reg VF = 0x80)

/-! ### Index and memory -/

/-- LD I, nnn puts the operand, zero-extended, in I and changes nothing else but the pc. -/
def Obligations.LoadOfTheIndex : Prop :=
  ∀ (nnn : Addr12) (s : State),
    ∃ t, exec (.ldI nnn) s = .next t ∧ t.i.toNat = nnn.toNat ∧ MovesBy 2 s t ∧ KeepsAllBut [.index] [] s t

/-- ADD I, Vx wraps at 16 bits and writes no flag (decision D13); LD F, Vx multiplies the whole byte by 5, never wrapping
(D22). Nothing else changes but the pc (its wrap: D4). -/
def Obligations.IndexArithmetic : Prop :=
  ∀ (x : Reg) (s : State),
    (∃ t, exec (.addI x) s = .next t ∧ t.i.toNat = (s.i.toNat + (s.reg x).toNat) % 65536 ∧ t.pc = s.pc + 2 ∧
      KeepsAllBut [.index] [] s t) ∧
    (∃ t, exec (.ldF x) s = .next t ∧ t.i.toNat = (s.reg x).toNat * 5 ∧ t.pc = s.pc + 2 ∧
      KeepsAllBut [.index] [] s t)

/-- LD B, Vx stores the hundreds, tens and ones of Vx at I, I+1, I+2, each address reduced modulo 4096 (decision D3); every
other byte of memory, and everything else but the pc (its wrap: D4), is as before. -/
def Obligations.BcdStoresThreeDigits : Prop :=
  ∀ (x : Reg) (s : State), Memory.wf s.mem = true →
    ∃ t, exec (.ldB x) s = .next t ∧
      (t.memRead s.i.toNat).toNat = (s.reg x).toNat / 100 ∧
      (t.memRead (s.i.toNat + 1)).toNat = (s.reg x).toNat / 10 % 10 ∧
      (t.memRead (s.i.toNat + 2)).toNat = (s.reg x).toNat % 10 ∧
      (∀ a, (∀ k, k < 3 → a % 4096 ≠ (s.i.toNat + k) % 4096) → t.memRead a = s.memRead a) ∧
      t.pc = s.pc + 2 ∧ KeepsAllBut [.memory] [] s t

/-- LD [I], Vx stores V0 .. Vx, Vx included, at I, I+1, …, each address reduced modulo 4096 (decision D3); every other byte
of memory, I, and everything else but the pc (its wrap: D4), is as before. -/
def Obligations.BulkStoreWritesV0ToVx : Prop :=
  ∀ (x : Reg) (s : State), Memory.wf s.mem = true →
    ∃ t, exec (.storeRegs x) s = .next t ∧
      (∀ k : Reg, k ≤ x → t.memRead (s.i.toNat + k.val) = s.reg k) ∧
      (∀ a, (∀ k : Reg, k ≤ x → a % 4096 ≠ (s.i.toNat + k.val) % 4096) → t.memRead a = s.memRead a) ∧
      t.pc = s.pc + 2 ∧ KeepsAllBut [.memory] [] s t

/-- LD Vx, [I] loads V0 .. Vx, Vx included, from I, I+1, …, each address reduced modulo 4096 (decision D3); the registers
above Vx, all of memory, I, and everything else but the pc (its wrap: D4), are as before. -/
def Obligations.BulkLoadReadsV0ToVx : Prop :=
  ∀ (x : Reg) (s : State),
    ∃ t, exec (.loadRegs x) s = .next t ∧
      (∀ k : Reg, k ≤ x → t.reg k = s.memRead ((s.i.toNat + k.val) % 4096)) ∧
      (∀ k : Reg, x < k → t.reg k = s.reg k) ∧
      t.pc = s.pc + 2 ∧ KeepsAllBut [] (List.finRange 16) s t

/-- A bulk store, then a bulk load with the same memory and the same I, whatever the registers hold in between, gives
V0 .. Vx back. -/
def Obligations.BulkStoreThenLoadRestores : Prop :=
  ∀ (x : Reg) (s z : State), Memory.wf s.mem = true →
    ∃ t, exec (.storeRegs x) s = .next t ∧
      (z.mem = t.mem → z.i = t.i →
        ∃ u, exec (.loadRegs x) z = .next u ∧ ∀ k : Reg, k ≤ x → u.reg k = s.reg k)

/-- A store is seen by the very next fetch: where LD [I], Vx stores Vk and V(k+1) over the next instruction, the next word
fetched is theirs (addresses modulo 4096: decisions D3, D4). -/
def Obligations.StoreIsSeenByTheNextFetch : Prop :=
  ∀ (x k l : Reg) (s : State), Memory.wf s.mem = true → l.val = k.val + 1 → l ≤ x →
    (s.i.toNat + k.val) % 4096 = (s.pc.toNat + 2) % 4096 →
    ∃ t, exec (.storeRegs x) s = .next t ∧ fetchWord t = s.reg k ++ s.reg l

/-! ### Timers and input -/

/-- LD Vx, DT, LD DT, Vx and LD ST, Vx: the copy, and nothing else but the pc. -/
def Obligations.TimerCopies : Prop :=
  ∀ (x : Reg) (s : State),
    (∃ t, exec (.ldVxDT x) s = .next t ∧ t.reg x = s.dt ∧ MovesBy 2 s t ∧ KeepsAllBut [] [x] s t) ∧
    (∃ t, exec (.ldDTVx x) s = .next t ∧ t.dt = s.reg x ∧ MovesBy 2 s t ∧ KeepsAllBut [.delayTimer] [] s t) ∧
    (∃ t, exec (.ldSTVx x) s = .next t ∧ t.st = s.reg x ∧ MovesBy 2 s t ∧ KeepsAllBut [.soundTimer] [] s t)

/-- SKP Vx skips exactly when key min(Vx, 15) is down, SKNP Vx exactly when it is up; neither writes anything but the pc.
(The clamp is the spec's decision D14; the pc's wrap is D4.) -/
def Obligations.SkipsOnAKey : Prop :=
  ∀ (x k : Reg) (s : State), k.val = min (s.reg x).toNat 15 →
    (∃ t, exec (.skp x) s = .next t ∧ t.pc = s.pc + (if s.keyDown k = true then 4 else 2) ∧ KeepsAllBut [] [] s t) ∧
    (∃ t, exec (.sknp x) s = .next t ∧ t.pc = s.pc + (if s.keyDown k = true then 2 else 4) ∧ KeepsAllBut [] [] s t)

/-- LD Vx, K arms the wait for Vx, writes no register and does not look at the latch; the pc advances in this same STEP
(the spec's decision D19; its wrap: D4). -/
def Obligations.KeyWaitIsArmed : Prop :=
  ∀ (x : Reg) (s : State),
    ∃ t, exec (.ldVxK x) s = .next t ∧ t.wait = some x ∧ t.pc = s.pc + 2 ∧ KeepsAllBut [.wait] [] s t

/-- The key-wait from end to end: a STEP that executes LD Vx, K, any number of further STEPs, then KEY_DOWN(k): Vx holds the
key, the wait is over, and the pc is at the next instruction (decisions D14, D19, D25). -/
def Obligations.KeyWaitRunsToTheKeyPress : Prop :=
  ∀ (s : State) (x : Reg) (n k : Nat), s.wait = none → s.ready = true →
    decodeWord (fetchWord s) = .ok (.ldVxK x) →
    let u := runOps (.step :: (List.replicate n .step ++ [.keyDown k])) s
    (u.reg x).toNat = min k 15 ∧ u.wait = none ∧ u.ready = true ∧ u.pc = s.pc + 2 ∧
      KeepsAllBut [.keys] [x] s u

/-! ### Host operations -/

/-- TICK counts each timer down by 1, floored at 0 (the subtraction is that of the natural numbers), and touches nothing
else, the pc included. (That it does so from every state, a pending key-wait and Unloaded included, is the spec's decision
D20, log entry 30.) -/
def Obligations.TickCountsBothTimersDown : Prop :=
  ∀ s : State,
    ∃ t, HostOp.tick.apply s = .next t ∧ t.dt.toNat = s.dt.toNat - 1 ∧ t.st.toNat = s.st.toNat - 1 ∧ t.pc = s.pc ∧
      KeepsAllBut [.delayTimer, .soundTimer] [] s t

/-- KEY_DOWN(k) sets the latch of key min(k, 15), and if a register waits for a key it gets the key's number and the wait
ends in the same operation; KEY_UP(k) clears the latch and nothing else (decisions D14, D25). -/
def Obligations.KeyEventsUpdateTheLatch : Prop :=
  ∀ (k : Nat) (j : Reg) (s : State), j.val = min k 15 →
    (∃ t, (HostOp.keyDown k).apply s = .next t ∧ (∀ m, t.keyDown m = (if m = j then true else s.keyDown m)) ∧
      t.wait = none ∧ (∀ r, s.wait = some r → (t.reg r).toNat = j.val ∧ KeepsAllBut [.keys, .wait] [r] s t) ∧
      (s.wait = none → KeepsAllBut [.keys] [] s t) ∧ t.pc = s.pc) ∧
    (∃ t, (HostOp.keyUp k).apply s = .next t ∧ (∀ m, t.keyDown m = (if m = j then false else s.keyDown m)) ∧
      KeepsAllBut [.keys] [] s t ∧ t.pc = s.pc)

/-- A pending key-wait is ended by KEY_DOWN, RESTART, UNLOAD (and CONSTRUCT, which makes the machine) only; every other
operation leaves it pending for the same register, with the pc and the V registers as they are. -/
def Obligations.KeyWaitEndsOnlyByTheHost : Prop :=
  ∀ (op : HostOp) (s t : State) (r : Reg), s.wait = some r → op.apply s = .next t →
    ((∃ k, op = .keyDown k) ∨ op = .restart ∨ op = .unload ∨ op = .construct) ∨
      (t.wait = some r ∧ t.pc = s.pc ∧ ∀ x, t.reg x = s.reg x)

/-- LOAD of an image of at most 3584 bytes copies it to 0x200 and up and sets READY, and does nothing else: no other byte of
memory, no register and not the pc changes (LOAD while Ready: the spec's decisions D17, D18). -/
def Obligations.LoadCopiesTheImage : Prop :=
  ∀ (image : List Byte) (s : State), Memory.wf s.mem = true → image.length ≤ 3584 →
    ∃ t, (HostOp.load image).apply s = .next t ∧ t.ready = true ∧
      (∀ j (h : j < image.length), t.memRead (0x200 + j) = image[j]) ∧
      (∀ a, a < 0x200 ∨ (0x200 + image.length ≤ a ∧ a < 4096) → t.memRead a = s.memRead a) ∧
      t.pc = s.pc ∧ KeepsAllBut [.memory, .ready] [] s t

/-- LOAD of a longer image is rejected as OversizedProgram, and no state changes. -/
def Obligations.OversizedLoadIsRejected : Prop :=
  ∀ (image : List Byte) (s : State), 3584 < image.length →
    (HostOp.load image).apply s = .refused .oversizedProgram ∧ (HostOp.load image).after s = s

/-- RESTART zeroes the registers, I, the stack and sp, the timers, the display and its flag and the latch, ends a key-wait,
puts the pc at 0x200 (the spec's decision D7), and keeps memory and READY as they are (decision D17 while Unloaded; D15
for CHANGED). The model's draw counter goes on (log entry 2). -/
def Obligations.RestartKeepsOnlyMemoryAndReady : Prop :=
  ∀ s : State,
    ∃ t, HostOp.restart.apply s = .next t ∧ (∀ x, t.reg x = 0) ∧ t.i = 0 ∧ t.pc = 0x200 ∧ t.sp = 0 ∧
      (∀ k, t.stackAt k = 0) ∧ t.dt = 0 ∧ t.st = 0 ∧ (∀ col row, ¬ PixelOn t col row) ∧ t.changed = false ∧
      (∀ k, t.keyDown k = false) ∧ t.wait = none ∧ Same .memory s t ∧ Same .ready s t ∧ Same .draws s t

/-- UNLOAD, from any state, gives the state after CONSTRUCT: every piece of state and the pc is that of reset, the font
table restored (the spec's decision D16). The model's draw counter alone goes on (log entry 2). -/
def Obligations.UnloadReturnsToTheConstructedState : Prop :=
  ∀ s : State,
    ∃ t, HostOp.unload.apply s = .next t ∧ t.pc = State.reset.pc ∧ KeepsAllBut [.draws] [] State.reset t ∧
      HostOp.construct.apply s = .next t

/-- FB_ACK clears CHANGED and does nothing else (the spec's decision D15). -/
def Obligations.FbAckClearsChanged : Prop :=
  ∀ s : State,
    ∃ t, HostOp.fbAck.apply s = .next t ∧ t.changed = false ∧ t.fb = s.fb ∧ t.pc = s.pc ∧ KeepsAllBut [.display] [] s t

/-- CHANGED is read by nothing: on a state that differs only in it, every host operation gives a next state that differs
only in it. -/
def Obligations.ChangedAffectsNothingElse : Prop :=
  ∀ (op : HostOp) (s t : State) (c : Bool), op.apply s = .next t →
    ∃ c', op.apply { s with changed := c } = .next { t with changed := c' }

/-- The state after CONSTRUCT: all 0, no key-wait, Unloaded; memory is 0 from 0x050 up to 0xFFF. (The pc is 0x200 by the
spec's decision D7; the bytes of the font below 0x050, which the spec takes from general knowledge, are not named here.) -/
def Obligations.ResetStateIsAsConstructed : Prop :=
  (∀ x, State.reset.reg x = 0) ∧ State.reset.i = 0 ∧ State.reset.pc = 0x200 ∧ State.reset.sp = 0 ∧
    (∀ k, State.reset.stackAt k = 0) ∧ State.reset.dt = 0 ∧ State.reset.st = 0 ∧
    (∀ col row, ¬ PixelOn State.reset col row) ∧ State.reset.changed = false ∧
    (∀ k, State.reset.keyDown k = false) ∧ State.reset.wait = none ∧ State.reset.ready = false ∧
    (∀ a, 0x050 ≤ a → a < 4096 → State.reset.memRead a = 0)

/-! ### The machine as a whole -/

/-- What no instruction can touch: KEY and READY never; CHANGED may be raised, never cleared; the stack only by CALL and
RET; I only by LD I, ADD I and LD F; memory only by LD B and LD [I]; the timers only by LD DT and LD ST; WAIT only by
LD Vx, K. -/
def Obligations.OnlyTheNamedInstructionsWriteSpecialState : Prop :=
  ∀ (i : Instr) (s t : State), exec i s = .next t →
    Same .keys s t ∧ Same .ready s t ∧ (s.changed = true → t.changed = true) ∧
    (i ≠ .ret → (∀ nnn, i ≠ .call nnn) → Same .stack s t) ∧
    ((∀ nnn, i ≠ .ldI nnn) → (∀ x, i ≠ .addI x) → (∀ x, i ≠ .ldF x) → Same .index s t) ∧
    ((∀ x, i ≠ .ldB x) → (∀ x, i ≠ .storeRegs x) → Same .memory s t) ∧
    ((∀ x, i ≠ .ldDTVx x) → Same .delayTimer s t) ∧ ((∀ x, i ≠ .ldSTVx x) → Same .soundTimer s t) ∧
    ((∀ x, i ≠ .ldVxK x) → Same .wait s t)

/-- The invariants hold after CONSTRUCT: a key-wait is pending only while Ready (R29, which marks it derived), and memory
is in its canonical form (the model's own form, not R29's: log entry 4, DEDUCED; log entry 9). -/
def Obligations.InvariantHoldsAtReset : Prop := State.reset.Inv

/-- Every STEP, from every state, keeps the invariants: a key-wait is pending only while Ready (R29, which marks it derived),
and memory is in its canonical form (the model's own form, not R29's: log entry 4, DEDUCED; log entry 9). -/
def Obligations.StepKeepsTheInvariant : Prop :=
  ∀ s t : State, s.Inv → step s = .next t → t.Inv

/-- Every state that any sequence of host operations reaches (loads, steps, ticks, key events, restarts, unloads, in any
order) satisfies the invariants: a key-wait is pending only while Ready (R29, which marks it derived), and memory is in its
canonical form (the model's own form, not R29's: log entry 4, DEDUCED; log entry 9). -/
def Obligations.EveryReachableStateIsGood : Prop := ∀ s : State, Reachable s → s.Inv

/-- Every host operation, STEP among them, from every state, with any argument, keeps the invariants: a key-wait is pending
only while Ready (R29, which marks it derived), and memory is in its canonical form (the model's own form, not R29's: log
entry 4, DEDUCED; log entry 9). That LOAD while Ready and RESTART leave READY as they do is the spec's decision D17, that
RESTART ends a key-wait R205. -/
def Obligations.HostOpKeepsTheInvariant : Prop :=
  ∀ (op : HostOp) (s t : State), s.Inv → op.apply s = .next t → t.Inv
end

