-- ==== Sys2Proof/Laws/Decode.lean ====
section
/-! SUPPORT. The fields of the word of each shape (30_encoding.md R61, R62): each operand is read back from where it was
put. -/

namespace Sys2Proof

theorem nibble_toNat (x : Fin 16) : (nibble x).toNat = x.val := by
  simp [nibble]

theorem shapeNNN_toNat (a : BitVec 4) (nnn : Addr12) : (shapeNNN a nnn).toNat = a.toNat * 4096 + nnn.toNat := by
  simp only [shapeNNN, BitVec.toNat_append]
  rw [← Nat.shiftLeft_add_eq_or_of_lt nnn.isLt, Nat.shiftLeft_eq]

theorem shapeXKK_toNat (a : BitVec 4) (x : Reg) (kk : Byte) :
    (shapeXKK a x kk).toNat = a.toNat * 4096 + x.val * 256 + kk.toNat := by
  simp only [shapeXKK, BitVec.toNat_append]
  rw [← Nat.shiftLeft_add_eq_or_of_lt (nibble x).isLt, ← Nat.shiftLeft_add_eq_or_of_lt kk.isLt, Nat.shiftLeft_eq,
    Nat.shiftLeft_eq, nibble_toNat]
  omega

theorem shapeXYN_toNat (a : BitVec 4) (x y : Reg) (n : BitVec 4) :
    (shapeXYN a x y n).toNat = a.toNat * 4096 + x.val * 256 + y.val * 16 + n.toNat := by
  simp only [shapeXYN, BitVec.toNat_append]
  rw [← Nat.shiftLeft_add_eq_or_of_lt (nibble x).isLt, ← Nat.shiftLeft_add_eq_or_of_lt (nibble y).isLt,
    ← Nat.shiftLeft_add_eq_or_of_lt n.isLt, Nat.shiftLeft_eq, Nat.shiftLeft_eq, Nat.shiftLeft_eq, nibble_toNat,
    nibble_toNat]
  omega

/-! ### A field as a number -/

theorem fieldA_eq (w : Word) : fieldA w = w.toNat / 4096 := by
  have := w.isLt
  simp [fieldA, Nat.shiftRight_eq_div_pow]
  omega

theorem fieldX_val (w : Word) : (fieldX w).val = w.toNat / 256 % 16 := by
  simp [fieldX, Nat.shiftRight_eq_div_pow]

theorem fieldY_val (w : Word) : (fieldY w).val = w.toNat / 16 % 16 := by
  simp [fieldY, Nat.shiftRight_eq_div_pow]

theorem fieldN_val (w : Word) : (fieldN w).val = w.toNat % 16 := by
  simp [fieldN]

theorem fieldKK_toNat (w : Word) : (fieldKK w).toNat = w.toNat % 256 := by
  simp [fieldKK]

theorem fieldNNN_toNat (w : Word) : (fieldNNN w).toNat = w.toNat % 4096 := by
  simp [fieldNNN]

/-! ### The fields of each shape -/

@[simp] theorem fieldA_shapeNNN (a : BitVec 4) (nnn : Addr12) : fieldA (shapeNNN a nnn) = a.toNat := by
  have := nnn.isLt
  rw [fieldA_eq, shapeNNN_toNat]
  omega

@[simp] theorem fieldNNN_shapeNNN (a : BitVec 4) (nnn : Addr12) : fieldNNN (shapeNNN a nnn) = nnn := by
  have := nnn.isLt
  apply BitVec.eq_of_toNat_eq
  rw [fieldNNN_toNat, shapeNNN_toNat]
  omega

@[simp] theorem fieldA_shapeXKK (a : BitVec 4) (x : Reg) (kk : Byte) : fieldA (shapeXKK a x kk) = a.toNat := by
  have := kk.isLt
  rw [fieldA_eq, shapeXKK_toNat]
  omega

@[simp] theorem fieldX_shapeXKK (a : BitVec 4) (x : Reg) (kk : Byte) : fieldX (shapeXKK a x kk) = x := by
  have := kk.isLt
  apply Fin.ext
  rw [fieldX_val, shapeXKK_toNat]
  omega

@[simp] theorem fieldKK_shapeXKK (a : BitVec 4) (x : Reg) (kk : Byte) : fieldKK (shapeXKK a x kk) = kk := by
  have := kk.isLt
  apply BitVec.eq_of_toNat_eq
  rw [fieldKK_toNat, shapeXKK_toNat]
  omega

@[simp] theorem fieldA_shapeXYN (a : BitVec 4) (x y : Reg) (n : BitVec 4) : fieldA (shapeXYN a x y n) = a.toNat := by
  have := n.isLt
  rw [fieldA_eq, shapeXYN_toNat]
  omega

@[simp] theorem fieldX_shapeXYN (a : BitVec 4) (x y : Reg) (n : BitVec 4) : fieldX (shapeXYN a x y n) = x := by
  have := n.isLt
  apply Fin.ext
  rw [fieldX_val, shapeXYN_toNat]
  omega

@[simp] theorem fieldY_shapeXYN (a : BitVec 4) (x y : Reg) (n : BitVec 4) : fieldY (shapeXYN a x y n) = y := by
  have := n.isLt
  apply Fin.ext
  rw [fieldY_val, shapeXYN_toNat]
  omega

@[simp] theorem fieldN_shapeXYN_val (a : BitVec 4) (x y : Reg) (n : BitVec 4) :
    (fieldN (shapeXYN a x y n)).val = n.toNat := by
  have := n.isLt
  rw [fieldN_val, shapeXYN_toNat]
  omega

/-- A word is its two bytes, the more significant first (R42). -/
@[simp] theorem highByte_append_lowByte (w : Word) : highByte w ++ lowByte w = w := by
  apply BitVec.eq_of_toNat_eq
  have := w.isLt
  rw [BitVec.toNat_append, ← Nat.shiftLeft_add_eq_or_of_lt (lowByte w).isLt, Nat.shiftLeft_eq]
  simp [highByte, lowByte, Nat.shiftRight_eq_div_pow]
  omega

/-- Two bytes decode as the word they make (R42, R60). -/
theorem decodeBytes_pair (hi lo : Byte) (rest : List Byte) :
    decodeBytes (hi :: lo :: rest) = (decodeWord (hi ++ lo)).map (fun i => (i, rest)) := rfl

/-- The only rejection of a word is that no row matches it (R66). -/
theorem decodeWord_eq_error (w : Word) (r : DecodeReject) (h : decodeWord w = .error r) : r = .noRow w := by
  unfold decodeWord at h
  split at h <;> simp_all

end Sys2Proof
end

