-- ==== Sys2Proof/Laws/Memory.lean ====
section
/-! SUPPORT. The laws of memory: every operation keeps the canonical form; a byte written is the byte read back there and
nowhere else; and two memories in canonical form that read alike are equal. -/

namespace Sys2Proof.Machine

/-! ### The canonical form -/

theorem Memory.wfFrom_cons (lo k : Nat) (c : Byte) (rest : Memory) :
    Memory.wfFrom lo ((k, c) :: rest) = true ↔
      lo ≤ k ∧ k < 4096 ∧ c ≠ Memory.background k ∧ Memory.wfFrom (k + 1) rest = true := by
  simp [Memory.wfFrom, and_assoc]

theorem Memory.wfFrom_weaken {lo lo' : Nat} {m : Memory} (h : lo ≤ lo') (hm : Memory.wfFrom lo' m = true) :
    Memory.wfFrom lo m = true := by
  cases m with
  | nil => rfl
  | cons p rest =>
    rw [Memory.wfFrom_cons] at hm ⊢
    exact ⟨by omega, hm.2⟩

@[simp] theorem Memory.wf_nil : Memory.wf [] = true := rfl

/-- An address below every listed one reads as the background. -/
theorem Memory.lookup_below {lo a : Nat} {m : Memory} (hm : Memory.wfFrom lo m = true) (ha : a < lo) :
    Memory.lookup m a = Memory.background a := by
  induction m generalizing lo with
  | nil => rfl
  | cons p rest ih =>
    obtain ⟨h1, -, -, h4⟩ := (Memory.wfFrom_cons ..).1 hm
    have hne : p.1 ≠ a := by omega
    simpa [Memory.lookup, hne] using ih h4 (by omega)

/-- A store keeps the canonical form. -/
theorem Memory.store_wfFrom {lo a : Nat} {m : Memory} (b : Byte) (hm : Memory.wfFrom lo m = true) (hlo : lo ≤ a)
    (ha : a < 4096) : Memory.wfFrom lo (Memory.store m a b) = true := by
  induction m generalizing lo with
  | nil =>
    unfold Memory.store
    split
    · rfl
    · simpa [Memory.wfFrom, hlo, ha]
  | cons p rest ih =>
    obtain ⟨k, c⟩ := p
    obtain ⟨h1, h2, h3, h4⟩ := (Memory.wfFrom_cons ..).1 hm
    unfold Memory.store
    split
    · split
      · exact hm
      · simp only [Memory.wfFrom_cons]
        exact ⟨hlo, ha, ‹_›, by omega, h2, h3, h4⟩
    · split
      · subst ‹a = k›
        split
        · exact Memory.wfFrom_weaken (by omega) h4
        · exact (Memory.wfFrom_cons ..).2 ⟨h1, ha, ‹_›, h4⟩
      · exact (Memory.wfFrom_cons ..).2 ⟨h1, h2, h3, ih h4 (by omega)⟩

theorem effAddr_lt (addr : Nat) : effAddr addr < 4096 := Nat.mod_lt _ (by decide)

/-- Writing a byte keeps the canonical form. -/
theorem Memory.write_wf {m : Memory} (addr : Nat) (b : Byte) (hm : Memory.wf m = true) :
    Memory.wf (m.write addr b) = true :=
  Memory.store_wfFrom b hm (Nat.zero_le _) (effAddr_lt addr)

/-- Writing bytes keeps the canonical form. -/
theorem Memory.writeBytes_wf {m : Memory} (addr : Nat) (bs : List Byte) (hm : Memory.wf m = true) :
    Memory.wf (m.writeBytes addr bs) = true := by
  induction bs generalizing m addr with
  | nil => exact hm
  | cons b bs ih => exact ih (addr + 1) (Memory.write_wf addr b hm)

/-! ### Read after write -/

theorem Memory.lookup_store_same {lo a : Nat} {m : Memory} (b : Byte) (hm : Memory.wfFrom lo m = true) :
    Memory.lookup (Memory.store m a b) a = b := by
  induction m generalizing lo with
  | nil => by_cases h : b = Memory.background a <;> simp [Memory.store, Memory.lookup, h]
  | cons p rest ih =>
    obtain ⟨k, c⟩ := p
    obtain ⟨-, -, -, h4⟩ := (Memory.wfFrom_cons ..).1 hm
    unfold Memory.store
    split
    · split
      · rw [Memory.lookup_below (Memory.wfFrom_weaken (Nat.le_refl k)
          ((Memory.wfFrom_cons k k c rest).2 ⟨Nat.le_refl k, by simp_all [Memory.wfFrom_cons]⟩)) ‹_›]
        exact (‹b = _›).symm
      · simp [Memory.lookup]
    · split
      · subst ‹a = k›
        split
        · rw [Memory.lookup_below h4 (Nat.lt_succ_self a)]
          exact (‹b = _›).symm
        · simp [Memory.lookup]
      · have hne : k ≠ a := fun h => ‹¬ a = k› h.symm
        simpa [Memory.lookup, hne] using ih h4

theorem Memory.lookup_store_other {a a' : Nat} (m : Memory) (b : Byte) (h : a' ≠ a) :
    Memory.lookup (Memory.store m a b) a' = Memory.lookup m a' := by
  have h' : a ≠ a' := fun e => h e.symm
  induction m with
  | nil => by_cases hb : b = Memory.background a <;> simp [Memory.store, Memory.lookup, hb, h']
  | cons p rest ih =>
    obtain ⟨k, c⟩ := p
    unfold Memory.store
    split
    · split <;> simp [Memory.lookup, h']
    · split
      · subst ‹a = k›
        split <;> simp [Memory.lookup, h']
      · simp [Memory.lookup, ih]

/-- What a read gives after a write: the byte at that address (reduced), every other byte as before (R41, R45, R49). -/
theorem Memory.read_write {m : Memory} (hm : Memory.wf m = true) (addr addr' : Nat) (b : Byte) :
    (m.write addr b).read addr' = if effAddr addr' = effAddr addr then b else m.read addr' := by
  unfold Memory.read Memory.write
  split
  · rw [‹effAddr addr' = effAddr addr›]
    exact Memory.lookup_store_same b hm
  · exact Memory.lookup_store_other m b ‹_›

/-- A byte outside the bytes written reads as before, in canonical form or not. -/
theorem Memory.read_writeBytes_outside (m : Memory) (addr : Nat) (bs : List Byte) (a : Nat)
    (h : ∀ j, j < bs.length → a % 4096 ≠ (addr + j) % 4096) : (m.writeBytes addr bs).read a = m.read a := by
  induction bs generalizing m addr with
  | nil => rfl
  | cons b bs ih =>
    have h0 : effAddr a ≠ effAddr addr := h 0 (by simp)
    refine (ih (m.write addr b) (addr + 1) fun j hj => ?_).trans (Memory.lookup_store_other m b h0)
    have := h (j + 1) (by simpa using hj)
    rwa [show addr + (j + 1) = addr + 1 + j by omega] at this

/-- Each byte written reads back, when they are at most 4096 and so at distinct addresses (R45). -/
theorem Memory.read_writeBytes_inside {m : Memory} (hm : Memory.wf m = true) (addr : Nat) (bs : List Byte)
    (hlen : bs.length ≤ 4096) (j : Nat) (hj : j < bs.length) : (m.writeBytes addr bs).read (addr + j) = bs[j] := by
  induction bs generalizing m addr j with
  | nil => exact absurd hj (by simp)
  | cons b bs ih =>
    simp only [List.length_cons] at hlen hj
    cases j with
    | zero =>
      show ((m.write addr b).writeBytes (addr + 1) bs).read addr = b
      rw [Memory.read_writeBytes_outside _ _ _ _ fun k hk => by omega, Memory.read_write hm, if_pos rfl]
    | succ j =>
      have := ih (Memory.write_wf addr b hm) (addr + 1) (by omega) j (by omega)
      rw [show addr + (j + 1) = addr + 1 + j by omega]
      simpa [Memory.writeBytes] using this

/-- Reading at an address and at the reduced address are the same (R41). -/
@[simp] theorem Memory.read_mod (m : Memory) (a : Nat) : m.read (a % 4096) = m.read a := by
  simp [Memory.read, effAddr]

/-- Two addresses that reduce alike read alike (R41). -/
theorem Memory.read_congr (m : Memory) {a a' : Nat} (h : a % 4096 = a' % 4096) : m.read a = m.read a' := by
  simp [Memory.read, effAddr, h]

/-! ### Equal memories are equal data -/

theorem Memory.ext_wfFrom {lo : Nat} {m m' : Memory} (hm : Memory.wfFrom lo m = true) (hm' : Memory.wfFrom lo m' = true)
    (h : ∀ a, lo ≤ a → Memory.lookup m a = Memory.lookup m' a) : m = m' := by
  induction m generalizing lo m' with
  | nil =>
    cases m' with
    | nil => rfl
    | cons q rest' =>
      obtain ⟨h1, -, h3, -⟩ := (Memory.wfFrom_cons ..).1 hm'
      exact absurd (by simpa [Memory.lookup] using h q.1 h1) (Ne.symm h3)
  | cons p rest ih =>
    obtain ⟨k, c⟩ := p
    obtain ⟨h1, -, h3, h4⟩ := (Memory.wfFrom_cons ..).1 hm
    cases m' with
    | nil => exact absurd (by simpa [Memory.lookup] using h k h1) h3
    | cons q rest' =>
      obtain ⟨k', c'⟩ := q
      obtain ⟨h1', -, h3', h4'⟩ := (Memory.wfFrom_cons ..).1 hm'
      rcases Nat.lt_trichotomy k k' with hlt | rfl | hlt
      · have := h k h1
        rw [Memory.lookup_below (m := (k', c') :: rest') (lo := k')
          ((Memory.wfFrom_cons ..).2 ⟨Nat.le_refl _, ((Memory.wfFrom_cons ..).1 hm').2⟩) hlt] at this
        exact absurd (by simpa [Memory.lookup] using this) h3
      · have hc : c = c' := by simpa [Memory.lookup] using h k h1
        subst hc
        rw [ih h4 h4' fun a ha => ?_]
        have hne : k ≠ a := by omega
        simpa [Memory.lookup, hne] using h a (by omega)
      · have := h k' h1'
        rw [Memory.lookup_below (m := (k, c) :: rest) (lo := k)
          ((Memory.wfFrom_cons ..).2 ⟨Nat.le_refl _, ((Memory.wfFrom_cons ..).1 hm).2⟩) hlt] at this
        exact absurd (by simpa [Memory.lookup] using this.symm) h3'

theorem Memory.lookup_above {lo : Nat} {m : Memory} (hm : Memory.wfFrom lo m = true) {a : Nat} (ha : 4096 ≤ a) :
    Memory.lookup m a = Memory.background a := by
  induction m generalizing lo with
  | nil => rfl
  | cons p rest ih =>
    obtain ⟨-, h2, -, h4⟩ := (Memory.wfFrom_cons ..).1 hm
    have hne : p.1 ≠ a := by omega
    simpa [Memory.lookup, hne] using ih h4

/-- Two memories in canonical form that read alike at every address are the same list. -/
theorem Memory.ext {m m' : Memory} (hm : Memory.wf m = true) (hm' : Memory.wf m' = true)
    (h : ∀ a, m.read a = m'.read a) : m = m' := by
  refine Memory.ext_wfFrom hm hm' fun a _ => ?_
  by_cases ha : a < 4096
  · simpa [Memory.read, effAddr, Nat.mod_eq_of_lt ha] using h a
  · rw [Memory.lookup_above hm (by omega), Memory.lookup_above hm' (by omega)]

end Sys2Proof.Machine
end

