-- ==== Sys2Proof/Laws/State.lean ====
section
/-! SUPPORT. What each update of the state leaves in each field and in each accessor: one lemma a field an update, so that no
later proof unfolds an update. -/

namespace Sys2Proof.Machine

/-! ### setReg -/

@[simp] theorem State.setReg_v (s : State) (x : Reg) (b : Byte) : (s.setReg x b).v = s.v.set x.val b := rfl
@[simp] theorem State.setReg_i (s : State) (x : Reg) (b : Byte) : (s.setReg x b).i = s.i := rfl
@[simp] theorem State.setReg_pc (s : State) (x : Reg) (b : Byte) : (s.setReg x b).pc = s.pc := rfl
@[simp] theorem State.setReg_mem (s : State) (x : Reg) (b : Byte) : (s.setReg x b).mem = s.mem := rfl
@[simp] theorem State.setReg_stack (s : State) (x : Reg) (b : Byte) : (s.setReg x b).stack = s.stack := rfl
@[simp] theorem State.setReg_sp (s : State) (x : Reg) (b : Byte) : (s.setReg x b).sp = s.sp := rfl
@[simp] theorem State.setReg_dt (s : State) (x : Reg) (b : Byte) : (s.setReg x b).dt = s.dt := rfl
@[simp] theorem State.setReg_st (s : State) (x : Reg) (b : Byte) : (s.setReg x b).st = s.st := rfl
@[simp] theorem State.setReg_fb (s : State) (x : Reg) (b : Byte) : (s.setReg x b).fb = s.fb := rfl
@[simp] theorem State.setReg_changed (s : State) (x : Reg) (b : Byte) :
    (s.setReg x b).changed = s.changed := rfl
@[simp] theorem State.setReg_key (s : State) (x : Reg) (b : Byte) : (s.setReg x b).key = s.key := rfl
@[simp] theorem State.setReg_wait (s : State) (x : Reg) (b : Byte) : (s.setReg x b).wait = s.wait := rfl
@[simp] theorem State.setReg_ready (s : State) (x : Reg) (b : Byte) : (s.setReg x b).ready = s.ready := rfl
@[simp] theorem State.setReg_draws (s : State) (x : Reg) (b : Byte) : (s.setReg x b).draws = s.draws := rfl
@[simp] theorem State.setReg_stackAt (s : State) (x : Reg) (b : Byte) (k' : Fin 16) : (s.setReg x b).stackAt k' = s.stackAt k' := rfl
@[simp] theorem State.setReg_keyDown (s : State) (x : Reg) (b : Byte) (k' : Reg) : (s.setReg x b).keyDown k' = s.keyDown k' := rfl
@[simp] theorem State.setReg_memRead (s : State) (x : Reg) (b : Byte) (addr : Nat) : (s.setReg x b).memRead addr = s.memRead addr := rfl

/-! ### setI -/

@[simp] theorem State.setI_v (s : State) (w : Word) : (s.setI w).v = s.v := rfl
@[simp] theorem State.setI_i (s : State) (w : Word) : (s.setI w).i = w := rfl
@[simp] theorem State.setI_pc (s : State) (w : Word) : (s.setI w).pc = s.pc := rfl
@[simp] theorem State.setI_mem (s : State) (w : Word) : (s.setI w).mem = s.mem := rfl
@[simp] theorem State.setI_stack (s : State) (w : Word) : (s.setI w).stack = s.stack := rfl
@[simp] theorem State.setI_sp (s : State) (w : Word) : (s.setI w).sp = s.sp := rfl
@[simp] theorem State.setI_dt (s : State) (w : Word) : (s.setI w).dt = s.dt := rfl
@[simp] theorem State.setI_st (s : State) (w : Word) : (s.setI w).st = s.st := rfl
@[simp] theorem State.setI_fb (s : State) (w : Word) : (s.setI w).fb = s.fb := rfl
@[simp] theorem State.setI_changed (s : State) (w : Word) : (s.setI w).changed = s.changed := rfl
@[simp] theorem State.setI_key (s : State) (w : Word) : (s.setI w).key = s.key := rfl
@[simp] theorem State.setI_wait (s : State) (w : Word) : (s.setI w).wait = s.wait := rfl
@[simp] theorem State.setI_ready (s : State) (w : Word) : (s.setI w).ready = s.ready := rfl
@[simp] theorem State.setI_draws (s : State) (w : Word) : (s.setI w).draws = s.draws := rfl
@[simp] theorem State.setI_reg (s : State) (w : Word) (y : Reg) : (s.setI w).reg y = s.reg y := rfl
@[simp] theorem State.setI_stackAt (s : State) (w : Word) (k' : Fin 16) : (s.setI w).stackAt k' = s.stackAt k' := rfl
@[simp] theorem State.setI_keyDown (s : State) (w : Word) (k' : Reg) : (s.setI w).keyDown k' = s.keyDown k' := rfl
@[simp] theorem State.setI_memRead (s : State) (w : Word) (addr : Nat) : (s.setI w).memRead addr = s.memRead addr := rfl

/-! ### setDT -/

@[simp] theorem State.setDT_v (s : State) (b : Byte) : (s.setDT b).v = s.v := rfl
@[simp] theorem State.setDT_i (s : State) (b : Byte) : (s.setDT b).i = s.i := rfl
@[simp] theorem State.setDT_pc (s : State) (b : Byte) : (s.setDT b).pc = s.pc := rfl
@[simp] theorem State.setDT_mem (s : State) (b : Byte) : (s.setDT b).mem = s.mem := rfl
@[simp] theorem State.setDT_stack (s : State) (b : Byte) : (s.setDT b).stack = s.stack := rfl
@[simp] theorem State.setDT_sp (s : State) (b : Byte) : (s.setDT b).sp = s.sp := rfl
@[simp] theorem State.setDT_dt (s : State) (b : Byte) : (s.setDT b).dt = b := rfl
@[simp] theorem State.setDT_st (s : State) (b : Byte) : (s.setDT b).st = s.st := rfl
@[simp] theorem State.setDT_fb (s : State) (b : Byte) : (s.setDT b).fb = s.fb := rfl
@[simp] theorem State.setDT_changed (s : State) (b : Byte) : (s.setDT b).changed = s.changed := rfl
@[simp] theorem State.setDT_key (s : State) (b : Byte) : (s.setDT b).key = s.key := rfl
@[simp] theorem State.setDT_wait (s : State) (b : Byte) : (s.setDT b).wait = s.wait := rfl
@[simp] theorem State.setDT_ready (s : State) (b : Byte) : (s.setDT b).ready = s.ready := rfl
@[simp] theorem State.setDT_draws (s : State) (b : Byte) : (s.setDT b).draws = s.draws := rfl
@[simp] theorem State.setDT_reg (s : State) (b : Byte) (y : Reg) : (s.setDT b).reg y = s.reg y := rfl
@[simp] theorem State.setDT_stackAt (s : State) (b : Byte) (k' : Fin 16) : (s.setDT b).stackAt k' = s.stackAt k' := rfl
@[simp] theorem State.setDT_keyDown (s : State) (b : Byte) (k' : Reg) : (s.setDT b).keyDown k' = s.keyDown k' := rfl
@[simp] theorem State.setDT_memRead (s : State) (b : Byte) (addr : Nat) : (s.setDT b).memRead addr = s.memRead addr := rfl

/-! ### setST -/

@[simp] theorem State.setST_v (s : State) (b : Byte) : (s.setST b).v = s.v := rfl
@[simp] theorem State.setST_i (s : State) (b : Byte) : (s.setST b).i = s.i := rfl
@[simp] theorem State.setST_pc (s : State) (b : Byte) : (s.setST b).pc = s.pc := rfl
@[simp] theorem State.setST_mem (s : State) (b : Byte) : (s.setST b).mem = s.mem := rfl
@[simp] theorem State.setST_stack (s : State) (b : Byte) : (s.setST b).stack = s.stack := rfl
@[simp] theorem State.setST_sp (s : State) (b : Byte) : (s.setST b).sp = s.sp := rfl
@[simp] theorem State.setST_dt (s : State) (b : Byte) : (s.setST b).dt = s.dt := rfl
@[simp] theorem State.setST_st (s : State) (b : Byte) : (s.setST b).st = b := rfl
@[simp] theorem State.setST_fb (s : State) (b : Byte) : (s.setST b).fb = s.fb := rfl
@[simp] theorem State.setST_changed (s : State) (b : Byte) : (s.setST b).changed = s.changed := rfl
@[simp] theorem State.setST_key (s : State) (b : Byte) : (s.setST b).key = s.key := rfl
@[simp] theorem State.setST_wait (s : State) (b : Byte) : (s.setST b).wait = s.wait := rfl
@[simp] theorem State.setST_ready (s : State) (b : Byte) : (s.setST b).ready = s.ready := rfl
@[simp] theorem State.setST_draws (s : State) (b : Byte) : (s.setST b).draws = s.draws := rfl
@[simp] theorem State.setST_reg (s : State) (b : Byte) (y : Reg) : (s.setST b).reg y = s.reg y := rfl
@[simp] theorem State.setST_stackAt (s : State) (b : Byte) (k' : Fin 16) : (s.setST b).stackAt k' = s.stackAt k' := rfl
@[simp] theorem State.setST_keyDown (s : State) (b : Byte) (k' : Reg) : (s.setST b).keyDown k' = s.keyDown k' := rfl
@[simp] theorem State.setST_memRead (s : State) (b : Byte) (addr : Nat) : (s.setST b).memRead addr = s.memRead addr := rfl

/-! ### setDisplay -/

@[simp] theorem State.setDisplay_v (s : State) (cells : Vector Bool 2048) : (s.setDisplay cells).v = s.v := rfl
@[simp] theorem State.setDisplay_i (s : State) (cells : Vector Bool 2048) : (s.setDisplay cells).i = s.i := rfl
@[simp] theorem State.setDisplay_pc (s : State) (cells : Vector Bool 2048) :
    (s.setDisplay cells).pc = s.pc := rfl
@[simp] theorem State.setDisplay_mem (s : State) (cells : Vector Bool 2048) :
    (s.setDisplay cells).mem = s.mem := rfl
@[simp] theorem State.setDisplay_stack (s : State) (cells : Vector Bool 2048) :
    (s.setDisplay cells).stack = s.stack := rfl
@[simp] theorem State.setDisplay_sp (s : State) (cells : Vector Bool 2048) :
    (s.setDisplay cells).sp = s.sp := rfl
@[simp] theorem State.setDisplay_dt (s : State) (cells : Vector Bool 2048) :
    (s.setDisplay cells).dt = s.dt := rfl
@[simp] theorem State.setDisplay_st (s : State) (cells : Vector Bool 2048) :
    (s.setDisplay cells).st = s.st := rfl
@[simp] theorem State.setDisplay_fb (s : State) (cells : Vector Bool 2048) :
    (s.setDisplay cells).fb = cells := rfl
@[simp] theorem State.setDisplay_changed (s : State) (cells : Vector Bool 2048) :
    (s.setDisplay cells).changed = true := rfl
@[simp] theorem State.setDisplay_key (s : State) (cells : Vector Bool 2048) :
    (s.setDisplay cells).key = s.key := rfl
@[simp] theorem State.setDisplay_wait (s : State) (cells : Vector Bool 2048) :
    (s.setDisplay cells).wait = s.wait := rfl
@[simp] theorem State.setDisplay_ready (s : State) (cells : Vector Bool 2048) :
    (s.setDisplay cells).ready = s.ready := rfl
@[simp] theorem State.setDisplay_draws (s : State) (cells : Vector Bool 2048) :
    (s.setDisplay cells).draws = s.draws := rfl
@[simp] theorem State.setDisplay_reg (s : State) (cells : Vector Bool 2048) (y : Reg) : (s.setDisplay cells).reg y = s.reg y := rfl
@[simp] theorem State.setDisplay_stackAt (s : State) (cells : Vector Bool 2048) (k' : Fin 16) : (s.setDisplay cells).stackAt k' = s.stackAt k' := rfl
@[simp] theorem State.setDisplay_keyDown (s : State) (cells : Vector Bool 2048) (k' : Reg) : (s.setDisplay cells).keyDown k' = s.keyDown k' := rfl
@[simp] theorem State.setDisplay_memRead (s : State) (cells : Vector Bool 2048) (addr : Nat) : (s.setDisplay cells).memRead addr = s.memRead addr := rfl

/-! ### setKey -/

@[simp] theorem State.setKey_v (s : State) (k : Reg) (d : Bool) : (s.setKey k d).v = s.v := rfl
@[simp] theorem State.setKey_i (s : State) (k : Reg) (d : Bool) : (s.setKey k d).i = s.i := rfl
@[simp] theorem State.setKey_pc (s : State) (k : Reg) (d : Bool) : (s.setKey k d).pc = s.pc := rfl
@[simp] theorem State.setKey_mem (s : State) (k : Reg) (d : Bool) : (s.setKey k d).mem = s.mem := rfl
@[simp] theorem State.setKey_stack (s : State) (k : Reg) (d : Bool) : (s.setKey k d).stack = s.stack := rfl
@[simp] theorem State.setKey_sp (s : State) (k : Reg) (d : Bool) : (s.setKey k d).sp = s.sp := rfl
@[simp] theorem State.setKey_dt (s : State) (k : Reg) (d : Bool) : (s.setKey k d).dt = s.dt := rfl
@[simp] theorem State.setKey_st (s : State) (k : Reg) (d : Bool) : (s.setKey k d).st = s.st := rfl
@[simp] theorem State.setKey_fb (s : State) (k : Reg) (d : Bool) : (s.setKey k d).fb = s.fb := rfl
@[simp] theorem State.setKey_changed (s : State) (k : Reg) (d : Bool) :
    (s.setKey k d).changed = s.changed := rfl
@[simp] theorem State.setKey_key (s : State) (k : Reg) (d : Bool) :
    (s.setKey k d).key = s.key.set k.val d := rfl
@[simp] theorem State.setKey_wait (s : State) (k : Reg) (d : Bool) : (s.setKey k d).wait = s.wait := rfl
@[simp] theorem State.setKey_ready (s : State) (k : Reg) (d : Bool) : (s.setKey k d).ready = s.ready := rfl
@[simp] theorem State.setKey_draws (s : State) (k : Reg) (d : Bool) : (s.setKey k d).draws = s.draws := rfl
@[simp] theorem State.setKey_reg (s : State) (k : Reg) (d : Bool) (y : Reg) : (s.setKey k d).reg y = s.reg y := rfl
@[simp] theorem State.setKey_stackAt (s : State) (k : Reg) (d : Bool) (k' : Fin 16) : (s.setKey k d).stackAt k' = s.stackAt k' := rfl
@[simp] theorem State.setKey_memRead (s : State) (k : Reg) (d : Bool) (addr : Nat) : (s.setKey k d).memRead addr = s.memRead addr := rfl

/-! ### setWait -/

@[simp] theorem State.setWait_v (s : State) (w : Option Reg) : (s.setWait w).v = s.v := rfl
@[simp] theorem State.setWait_i (s : State) (w : Option Reg) : (s.setWait w).i = s.i := rfl
@[simp] theorem State.setWait_pc (s : State) (w : Option Reg) : (s.setWait w).pc = s.pc := rfl
@[simp] theorem State.setWait_mem (s : State) (w : Option Reg) : (s.setWait w).mem = s.mem := rfl
@[simp] theorem State.setWait_stack (s : State) (w : Option Reg) : (s.setWait w).stack = s.stack := rfl
@[simp] theorem State.setWait_sp (s : State) (w : Option Reg) : (s.setWait w).sp = s.sp := rfl
@[simp] theorem State.setWait_dt (s : State) (w : Option Reg) : (s.setWait w).dt = s.dt := rfl
@[simp] theorem State.setWait_st (s : State) (w : Option Reg) : (s.setWait w).st = s.st := rfl
@[simp] theorem State.setWait_fb (s : State) (w : Option Reg) : (s.setWait w).fb = s.fb := rfl
@[simp] theorem State.setWait_changed (s : State) (w : Option Reg) : (s.setWait w).changed = s.changed := rfl
@[simp] theorem State.setWait_key (s : State) (w : Option Reg) : (s.setWait w).key = s.key := rfl
@[simp] theorem State.setWait_wait (s : State) (w : Option Reg) : (s.setWait w).wait = w := rfl
@[simp] theorem State.setWait_ready (s : State) (w : Option Reg) : (s.setWait w).ready = s.ready := rfl
@[simp] theorem State.setWait_draws (s : State) (w : Option Reg) : (s.setWait w).draws = s.draws := rfl
@[simp] theorem State.setWait_reg (s : State) (w : Option Reg) (y : Reg) : (s.setWait w).reg y = s.reg y := rfl
@[simp] theorem State.setWait_stackAt (s : State) (w : Option Reg) (k' : Fin 16) : (s.setWait w).stackAt k' = s.stackAt k' := rfl
@[simp] theorem State.setWait_keyDown (s : State) (w : Option Reg) (k' : Reg) : (s.setWait w).keyDown k' = s.keyDown k' := rfl
@[simp] theorem State.setWait_memRead (s : State) (w : Option Reg) (addr : Nat) : (s.setWait w).memRead addr = s.memRead addr := rfl

/-! ### memWriteBytes -/

@[simp] theorem State.memWriteBytes_v (s : State) (a : Nat) (bs : List Byte) :
    (s.memWriteBytes a bs).v = s.v := rfl
@[simp] theorem State.memWriteBytes_i (s : State) (a : Nat) (bs : List Byte) :
    (s.memWriteBytes a bs).i = s.i := rfl
@[simp] theorem State.memWriteBytes_pc (s : State) (a : Nat) (bs : List Byte) :
    (s.memWriteBytes a bs).pc = s.pc := rfl
@[simp] theorem State.memWriteBytes_mem (s : State) (a : Nat) (bs : List Byte) :
    (s.memWriteBytes a bs).mem = s.mem.writeBytes a bs := rfl
@[simp] theorem State.memWriteBytes_stack (s : State) (a : Nat) (bs : List Byte) :
    (s.memWriteBytes a bs).stack = s.stack := rfl
@[simp] theorem State.memWriteBytes_sp (s : State) (a : Nat) (bs : List Byte) :
    (s.memWriteBytes a bs).sp = s.sp := rfl
@[simp] theorem State.memWriteBytes_dt (s : State) (a : Nat) (bs : List Byte) :
    (s.memWriteBytes a bs).dt = s.dt := rfl
@[simp] theorem State.memWriteBytes_st (s : State) (a : Nat) (bs : List Byte) :
    (s.memWriteBytes a bs).st = s.st := rfl
@[simp] theorem State.memWriteBytes_fb (s : State) (a : Nat) (bs : List Byte) :
    (s.memWriteBytes a bs).fb = s.fb := rfl
@[simp] theorem State.memWriteBytes_changed (s : State) (a : Nat) (bs : List Byte) :
    (s.memWriteBytes a bs).changed = s.changed := rfl
@[simp] theorem State.memWriteBytes_key (s : State) (a : Nat) (bs : List Byte) :
    (s.memWriteBytes a bs).key = s.key := rfl
@[simp] theorem State.memWriteBytes_wait (s : State) (a : Nat) (bs : List Byte) :
    (s.memWriteBytes a bs).wait = s.wait := rfl
@[simp] theorem State.memWriteBytes_ready (s : State) (a : Nat) (bs : List Byte) :
    (s.memWriteBytes a bs).ready = s.ready := rfl
@[simp] theorem State.memWriteBytes_draws (s : State) (a : Nat) (bs : List Byte) :
    (s.memWriteBytes a bs).draws = s.draws := rfl
@[simp] theorem State.memWriteBytes_reg (s : State) (a : Nat) (bs : List Byte) (y : Reg) : (s.memWriteBytes a bs).reg y = s.reg y := rfl
@[simp] theorem State.memWriteBytes_stackAt (s : State) (a : Nat) (bs : List Byte) (k' : Fin 16) : (s.memWriteBytes a bs).stackAt k' = s.stackAt k' := rfl
@[simp] theorem State.memWriteBytes_keyDown (s : State) (a : Nat) (bs : List Byte) (k' : Reg) : (s.memWriteBytes a bs).keyDown k' = s.keyDown k' := rfl

/-! ### nextDraw -/

@[simp] theorem State.nextDraw_v (s : State) : s.nextDraw.v = s.v := rfl
@[simp] theorem State.nextDraw_i (s : State) : s.nextDraw.i = s.i := rfl
@[simp] theorem State.nextDraw_pc (s : State) : s.nextDraw.pc = s.pc := rfl
@[simp] theorem State.nextDraw_mem (s : State) : s.nextDraw.mem = s.mem := rfl
@[simp] theorem State.nextDraw_stack (s : State) : s.nextDraw.stack = s.stack := rfl
@[simp] theorem State.nextDraw_sp (s : State) : s.nextDraw.sp = s.sp := rfl
@[simp] theorem State.nextDraw_dt (s : State) : s.nextDraw.dt = s.dt := rfl
@[simp] theorem State.nextDraw_st (s : State) : s.nextDraw.st = s.st := rfl
@[simp] theorem State.nextDraw_fb (s : State) : s.nextDraw.fb = s.fb := rfl
@[simp] theorem State.nextDraw_changed (s : State) : s.nextDraw.changed = s.changed := rfl
@[simp] theorem State.nextDraw_key (s : State) : s.nextDraw.key = s.key := rfl
@[simp] theorem State.nextDraw_wait (s : State) : s.nextDraw.wait = s.wait := rfl
@[simp] theorem State.nextDraw_ready (s : State) : s.nextDraw.ready = s.ready := rfl
@[simp] theorem State.nextDraw_draws (s : State) : s.nextDraw.draws = s.draws + 1 := rfl
@[simp] theorem State.nextDraw_reg (s : State) (y : Reg) : s.nextDraw.reg y = s.reg y := rfl
@[simp] theorem State.nextDraw_stackAt (s : State) (k' : Fin 16) : s.nextDraw.stackAt k' = s.stackAt k' := rfl
@[simp] theorem State.nextDraw_keyDown (s : State) (k' : Reg) : s.nextDraw.keyDown k' = s.keyDown k' := rfl
@[simp] theorem State.nextDraw_memRead (s : State) (addr : Nat) : s.nextDraw.memRead addr = s.memRead addr := rfl

/-! ### advance -/

@[simp] theorem State.advance_v (s : State) : s.advance.v = s.v := rfl
@[simp] theorem State.advance_i (s : State) : s.advance.i = s.i := rfl
@[simp] theorem State.advance_pc (s : State) : s.advance.pc = s.pc + 2 := rfl
@[simp] theorem State.advance_mem (s : State) : s.advance.mem = s.mem := rfl
@[simp] theorem State.advance_stack (s : State) : s.advance.stack = s.stack := rfl
@[simp] theorem State.advance_sp (s : State) : s.advance.sp = s.sp := rfl
@[simp] theorem State.advance_dt (s : State) : s.advance.dt = s.dt := rfl
@[simp] theorem State.advance_st (s : State) : s.advance.st = s.st := rfl
@[simp] theorem State.advance_fb (s : State) : s.advance.fb = s.fb := rfl
@[simp] theorem State.advance_changed (s : State) : s.advance.changed = s.changed := rfl
@[simp] theorem State.advance_key (s : State) : s.advance.key = s.key := rfl
@[simp] theorem State.advance_wait (s : State) : s.advance.wait = s.wait := rfl
@[simp] theorem State.advance_ready (s : State) : s.advance.ready = s.ready := rfl
@[simp] theorem State.advance_draws (s : State) : s.advance.draws = s.draws := rfl
@[simp] theorem State.advance_reg (s : State) (y : Reg) : s.advance.reg y = s.reg y := rfl
@[simp] theorem State.advance_stackAt (s : State) (k' : Fin 16) : s.advance.stackAt k' = s.stackAt k' := rfl
@[simp] theorem State.advance_keyDown (s : State) (k' : Reg) : s.advance.keyDown k' = s.keyDown k' := rfl
@[simp] theorem State.advance_memRead (s : State) (addr : Nat) : s.advance.memRead addr = s.memRead addr := rfl

/-! ### skipIf -/

@[simp] theorem State.skipIf_v (s : State) (c : Bool) : (s.skipIf c).v = s.v := by cases c <;> rfl
@[simp] theorem State.skipIf_i (s : State) (c : Bool) : (s.skipIf c).i = s.i := by cases c <;> rfl
@[simp] theorem State.skipIf_pc (s : State) (c : Bool) : (s.skipIf c).pc = if c then s.pc + 2 else s.pc := by cases c <;> rfl
@[simp] theorem State.skipIf_mem (s : State) (c : Bool) : (s.skipIf c).mem = s.mem := by cases c <;> rfl
@[simp] theorem State.skipIf_stack (s : State) (c : Bool) : (s.skipIf c).stack = s.stack := by cases c <;> rfl
@[simp] theorem State.skipIf_sp (s : State) (c : Bool) : (s.skipIf c).sp = s.sp := by cases c <;> rfl
@[simp] theorem State.skipIf_dt (s : State) (c : Bool) : (s.skipIf c).dt = s.dt := by cases c <;> rfl
@[simp] theorem State.skipIf_st (s : State) (c : Bool) : (s.skipIf c).st = s.st := by cases c <;> rfl
@[simp] theorem State.skipIf_fb (s : State) (c : Bool) : (s.skipIf c).fb = s.fb := by cases c <;> rfl
@[simp] theorem State.skipIf_changed (s : State) (c : Bool) : (s.skipIf c).changed = s.changed := by cases c <;> rfl
@[simp] theorem State.skipIf_key (s : State) (c : Bool) : (s.skipIf c).key = s.key := by cases c <;> rfl
@[simp] theorem State.skipIf_wait (s : State) (c : Bool) : (s.skipIf c).wait = s.wait := by cases c <;> rfl
@[simp] theorem State.skipIf_ready (s : State) (c : Bool) : (s.skipIf c).ready = s.ready := by cases c <;> rfl
@[simp] theorem State.skipIf_draws (s : State) (c : Bool) : (s.skipIf c).draws = s.draws := by cases c <;> rfl
@[simp] theorem State.skipIf_reg (s : State) (c : Bool) (y : Reg) : (s.skipIf c).reg y = s.reg y := by cases c <;> rfl
@[simp] theorem State.skipIf_stackAt (s : State) (c : Bool) (k' : Fin 16) : (s.skipIf c).stackAt k' = s.stackAt k' := by cases c <;> rfl
@[simp] theorem State.skipIf_keyDown (s : State) (c : Bool) (k' : Reg) : (s.skipIf c).keyDown k' = s.keyDown k' := by cases c <;> rfl
@[simp] theorem State.skipIf_memRead (s : State) (c : Bool) (addr : Nat) : (s.skipIf c).memRead addr = s.memRead addr := by cases c <;> rfl

/-! ### jumpTo -/

@[simp] theorem State.jumpTo_v (s : State) (w : Word) : (s.jumpTo w).v = s.v := rfl
@[simp] theorem State.jumpTo_i (s : State) (w : Word) : (s.jumpTo w).i = s.i := rfl
@[simp] theorem State.jumpTo_pc (s : State) (w : Word) : (s.jumpTo w).pc = w := rfl
@[simp] theorem State.jumpTo_mem (s : State) (w : Word) : (s.jumpTo w).mem = s.mem := rfl
@[simp] theorem State.jumpTo_stack (s : State) (w : Word) : (s.jumpTo w).stack = s.stack := rfl
@[simp] theorem State.jumpTo_sp (s : State) (w : Word) : (s.jumpTo w).sp = s.sp := rfl
@[simp] theorem State.jumpTo_dt (s : State) (w : Word) : (s.jumpTo w).dt = s.dt := rfl
@[simp] theorem State.jumpTo_st (s : State) (w : Word) : (s.jumpTo w).st = s.st := rfl
@[simp] theorem State.jumpTo_fb (s : State) (w : Word) : (s.jumpTo w).fb = s.fb := rfl
@[simp] theorem State.jumpTo_changed (s : State) (w : Word) : (s.jumpTo w).changed = s.changed := rfl
@[simp] theorem State.jumpTo_key (s : State) (w : Word) : (s.jumpTo w).key = s.key := rfl
@[simp] theorem State.jumpTo_wait (s : State) (w : Word) : (s.jumpTo w).wait = s.wait := rfl
@[simp] theorem State.jumpTo_ready (s : State) (w : Word) : (s.jumpTo w).ready = s.ready := rfl
@[simp] theorem State.jumpTo_draws (s : State) (w : Word) : (s.jumpTo w).draws = s.draws := rfl
@[simp] theorem State.jumpTo_reg (s : State) (w : Word) (y : Reg) : (s.jumpTo w).reg y = s.reg y := rfl
@[simp] theorem State.jumpTo_stackAt (s : State) (w : Word) (k' : Fin 16) : (s.jumpTo w).stackAt k' = s.stackAt k' := rfl
@[simp] theorem State.jumpTo_keyDown (s : State) (w : Word) (k' : Reg) : (s.jumpTo w).keyDown k' = s.keyDown k' := rfl
@[simp] theorem State.jumpTo_memRead (s : State) (w : Word) (addr : Nat) : (s.jumpTo w).memRead addr = s.memRead addr := rfl

/-! ### push -/

@[simp] theorem State.push_v (s : State) (w : Word) : (s.push w).v = s.v := rfl
@[simp] theorem State.push_i (s : State) (w : Word) : (s.push w).i = s.i := rfl
@[simp] theorem State.push_pc (s : State) (w : Word) : (s.push w).pc = s.pc := rfl
@[simp] theorem State.push_mem (s : State) (w : Word) : (s.push w).mem = s.mem := rfl
@[simp] theorem State.push_stack (s : State) (w : Word) :
    (s.push w).stack = s.stack.set (pushSlot s.sp).val w := rfl
@[simp] theorem State.push_sp (s : State) (w : Word) :
    (s.push w).sp = if h : s.sp.val < 16 then ⟨s.sp.val + 1, by omega⟩ else s.sp := rfl
@[simp] theorem State.push_dt (s : State) (w : Word) : (s.push w).dt = s.dt := rfl
@[simp] theorem State.push_st (s : State) (w : Word) : (s.push w).st = s.st := rfl
@[simp] theorem State.push_fb (s : State) (w : Word) : (s.push w).fb = s.fb := rfl
@[simp] theorem State.push_changed (s : State) (w : Word) : (s.push w).changed = s.changed := rfl
@[simp] theorem State.push_key (s : State) (w : Word) : (s.push w).key = s.key := rfl
@[simp] theorem State.push_wait (s : State) (w : Word) : (s.push w).wait = s.wait := rfl
@[simp] theorem State.push_ready (s : State) (w : Word) : (s.push w).ready = s.ready := rfl
@[simp] theorem State.push_draws (s : State) (w : Word) : (s.push w).draws = s.draws := rfl
@[simp] theorem State.push_reg (s : State) (w : Word) (y : Reg) : (s.push w).reg y = s.reg y := rfl
@[simp] theorem State.push_keyDown (s : State) (w : Word) (k' : Reg) : (s.push w).keyDown k' = s.keyDown k' := rfl
@[simp] theorem State.push_memRead (s : State) (w : Word) (addr : Nat) : (s.push w).memRead addr = s.memRead addr := rfl

/-! ### pop -/

@[simp] theorem State.pop_v (s : State) : s.pop.v = s.v := rfl
@[simp] theorem State.pop_i (s : State) : s.pop.i = s.i := rfl
@[simp] theorem State.pop_pc (s : State) : s.pop.pc = s.pc := rfl
@[simp] theorem State.pop_mem (s : State) : s.pop.mem = s.mem := rfl
@[simp] theorem State.pop_stack (s : State) : s.pop.stack = s.stack := rfl
@[simp] theorem State.pop_sp (s : State) : s.pop.sp = ⟨s.sp.val - 1, by omega⟩ := rfl
@[simp] theorem State.pop_dt (s : State) : s.pop.dt = s.dt := rfl
@[simp] theorem State.pop_st (s : State) : s.pop.st = s.st := rfl
@[simp] theorem State.pop_fb (s : State) : s.pop.fb = s.fb := rfl
@[simp] theorem State.pop_changed (s : State) : s.pop.changed = s.changed := rfl
@[simp] theorem State.pop_key (s : State) : s.pop.key = s.key := rfl
@[simp] theorem State.pop_wait (s : State) : s.pop.wait = s.wait := rfl
@[simp] theorem State.pop_ready (s : State) : s.pop.ready = s.ready := rfl
@[simp] theorem State.pop_draws (s : State) : s.pop.draws = s.draws := rfl
@[simp] theorem State.pop_reg (s : State) (y : Reg) : s.pop.reg y = s.reg y := rfl
@[simp] theorem State.pop_stackAt (s : State) (k' : Fin 16) : s.pop.stackAt k' = s.stackAt k' := rfl
@[simp] theorem State.pop_keyDown (s : State) (k' : Reg) : s.pop.keyDown k' = s.keyDown k' := rfl
@[simp] theorem State.pop_memRead (s : State) (addr : Nat) : s.pop.memRead addr = s.memRead addr := rfl

/-! ### setResultThenFlag -/

@[simp] theorem State.setResultThenFlag_v (s : State) (x : Reg) (r f : Byte) :
    (s.setResultThenFlag x r f).v = (s.v.set x.val r).set 15 f := rfl
@[simp] theorem State.setResultThenFlag_i (s : State) (x : Reg) (r f : Byte) :
    (s.setResultThenFlag x r f).i = s.i := rfl
@[simp] theorem State.setResultThenFlag_pc (s : State) (x : Reg) (r f : Byte) :
    (s.setResultThenFlag x r f).pc = s.pc := rfl
@[simp] theorem State.setResultThenFlag_mem (s : State) (x : Reg) (r f : Byte) :
    (s.setResultThenFlag x r f).mem = s.mem := rfl
@[simp] theorem State.setResultThenFlag_stack (s : State) (x : Reg) (r f : Byte) :
    (s.setResultThenFlag x r f).stack = s.stack := rfl
@[simp] theorem State.setResultThenFlag_sp (s : State) (x : Reg) (r f : Byte) :
    (s.setResultThenFlag x r f).sp = s.sp := rfl
@[simp] theorem State.setResultThenFlag_dt (s : State) (x : Reg) (r f : Byte) :
    (s.setResultThenFlag x r f).dt = s.dt := rfl
@[simp] theorem State.setResultThenFlag_st (s : State) (x : Reg) (r f : Byte) :
    (s.setResultThenFlag x r f).st = s.st := rfl
@[simp] theorem State.setResultThenFlag_fb (s : State) (x : Reg) (r f : Byte) :
    (s.setResultThenFlag x r f).fb = s.fb := rfl
@[simp] theorem State.setResultThenFlag_changed (s : State) (x : Reg) (r f : Byte) :
    (s.setResultThenFlag x r f).changed = s.changed := rfl
@[simp] theorem State.setResultThenFlag_key (s : State) (x : Reg) (r f : Byte) :
    (s.setResultThenFlag x r f).key = s.key := rfl
@[simp] theorem State.setResultThenFlag_wait (s : State) (x : Reg) (r f : Byte) :
    (s.setResultThenFlag x r f).wait = s.wait := rfl
@[simp] theorem State.setResultThenFlag_ready (s : State) (x : Reg) (r f : Byte) :
    (s.setResultThenFlag x r f).ready = s.ready := rfl
@[simp] theorem State.setResultThenFlag_draws (s : State) (x : Reg) (r f : Byte) :
    (s.setResultThenFlag x r f).draws = s.draws := rfl
@[simp] theorem State.setResultThenFlag_stackAt (s : State) (x : Reg) (r f : Byte) (k' : Fin 16) : (s.setResultThenFlag x r f).stackAt k' = s.stackAt k' := rfl
@[simp] theorem State.setResultThenFlag_keyDown (s : State) (x : Reg) (r f : Byte) (k' : Reg) : (s.setResultThenFlag x r f).keyDown k' = s.keyDown k' := rfl
@[simp] theorem State.setResultThenFlag_memRead (s : State) (x : Reg) (r f : Byte) (addr : Nat) : (s.setResultThenFlag x r f).memRead addr = s.memRead addr := rfl

/-! ### Reading what was written -/

/-- A register write is seen by the register it names and by no other (R10). -/
theorem State.setReg_reg (s : State) (x y : Reg) (b : Byte) :
    (s.setReg x b).reg y = if y = x then b else s.reg y := by
  simp [State.setReg, State.reg, Vector.getElem_set, Fin.ext_iff, eq_comm]

@[simp] theorem State.setReg_reg_same (s : State) (x : Reg) (b : Byte) : (s.setReg x b).reg x = b := by
  simp [State.setReg_reg]

theorem State.setReg_reg_other (s : State) {x y : Reg} (b : Byte) (h : y ≠ x) :
    (s.setReg x b).reg y = s.reg y := by
  simp [State.setReg_reg, h]

/-- The one order of the flag writers: the flag in `VF` whatever `x` is, the result in `Vx` unless `x` is 15 (R11, R133). -/
theorem State.setResultThenFlag_reg (s : State) (x y : Reg) (r f : Byte) :
    (s.setResultThenFlag x r f).reg y = if y = VF then f else if y = x then r else s.reg y := by
  simp [State.setResultThenFlag, State.setReg_reg]

/-- A latch write is seen by the key it names and by no other (R21). -/
theorem State.setKey_keyDown (s : State) (j k : Reg) (d : Bool) :
    (s.setKey j d).keyDown k = if k = j then d else s.keyDown k := by
  simp [State.setKey, State.keyDown, Vector.getElem_set, Fin.ext_iff, eq_comm]

/-- A push is seen in the slot it writes and in no other (R102). -/
theorem State.push_stackAt (s : State) (w : Word) (k : Fin 16) :
    (s.push w).stackAt k = if k = pushSlot s.sp then w else s.stackAt k := by
  simp [State.push, State.stackAt, Vector.getElem_set, Fin.ext_iff, eq_comm]

/-- The slot CALL writes: `sp` while there is room, else 15 (R102). -/
theorem pushSlot_val (sp : Fin 17) : (pushSlot sp).val = min sp.val 15 := by
  unfold pushSlot
  split <;> simp <;> omega

/-- The stack pointer after a push: one more, saturating at 16 (R16, R102). -/
theorem State.push_sp_val (s : State) (w : Word) : (s.push w).sp.val = min (s.sp.val + 1) 16 := by
  rw [State.push_sp]
  split
  · show s.sp.val + 1 = _
    omega
  · omega

/-- The slot RET reads (R103). -/
@[simp] theorem popSlot_val (sp : Fin 17) : (popSlot sp).val = sp.val - 1 := rfl

/-! ### The answers of the two endings -/

/-- A sequential instruction answers its state with the pc advanced, and nothing else (R83, R84). -/
theorem sequential_eq_next (s t : State) : sequential s = .next t ↔ t = s.advance := by
  simp [sequential, eq_comm]

/-- A jump answers its state with the pc at the target, and nothing else (R84). -/
theorem jump_eq_next (s t : State) (w : Word) : jump s w = .next t ↔ t = s.jumpTo w := by
  simp [jump, eq_comm]

end Sys2Proof.Machine
end

