-- ==== Sys2Proof/Laws/Ops.lean ====
section
/-! SUPPORT. One specification lemma for each shared operation over operands, memory and display: everything it can do. -/

namespace Sys2Proof.Machine

/-! ### Operands -/

@[simp] theorem zext12_toNat (nnn : Addr12) : (zext12 nnn).toNat = nnn.toNat := by
  have := nnn.isLt
  simp [zext12]
  omega

@[simp] theorem zext8_toNat (b : Byte) : (zext8 b).toNat = b.toNat := by
  have := b.isLt
  simp [zext8]
  omega

@[simp] theorem keyIdx_val (v : Nat) : (keyIdx v).val = min v 15 := rfl

/-- The product of LD F never wraps (R142). -/
@[simp] theorem glyphAddr_toNat (b : Byte) : (glyphAddr b).toNat = b.toNat * 5 := by
  have := b.isLt
  simp [glyphAddr]
  omega

theorem cellIndex_val (px py : Nat) : (cellIndex px py).val = py % 32 * 64 + px % 64 := rfl

@[simp] theorem bcdDigits_length (b : Byte) : (bcdDigits b).length = 3 := rfl

@[simp] theorem regBytes_length (s : State) (x : Reg) : (regBytes s x).length = x.val + 1 := by
  simp [regBytes]

/-- The bytes LD [I] stores are the registers, in order (R144). -/
theorem regBytes_getElem (s : State) (x : Reg) (k : Nat) (h : k < (regBytes s x).length) :
    (regBytes s x)[k] = s.reg ⟨k, by simp at h; omega⟩ := by
  simp [regBytes, State.reg]

/-! ### Memory, through the state -/

/-- Storing bytes keeps memory in canonical form. -/
theorem State.memWriteBytes_wf (s : State) (addr : Nat) (bs : List Byte) (h : Memory.wf s.mem = true) :
    Memory.wf (s.memWriteBytes addr bs).mem = true :=
  Memory.writeBytes_wf addr bs h

/-- Each byte stored reads back (R45, R49). -/
theorem State.memWriteBytes_inside (s : State) (addr : Nat) (bs : List Byte) (h : Memory.wf s.mem = true)
    (hlen : bs.length ≤ 4096) (j : Nat) (hj : j < bs.length) :
    (s.memWriteBytes addr bs).memRead (addr + j) = bs[j] :=
  Memory.read_writeBytes_inside h addr bs hlen j hj

/-- Every other byte reads as before. -/
theorem State.memWriteBytes_outside (s : State) (addr : Nat) (bs : List Byte) (a : Nat)
    (h : ∀ j, j < bs.length → a % 4096 ≠ (addr + j) % 4096) : (s.memWriteBytes addr bs).memRead a = s.memRead a :=
  Memory.read_writeBytes_outside s.mem addr bs a h

/-- Two addresses that reduce alike read alike (R41). -/
theorem State.memRead_congr (s : State) {a a' : Nat} (h : a % 4096 = a' % 4096) : s.memRead a = s.memRead a' :=
  Memory.read_congr s.mem h

@[simp] theorem State.memRead_mod (s : State) (a : Nat) : s.memRead (a % 4096) = s.memRead a :=
  Memory.read_mod s.mem a

/-- The two bytes fetched and nothing else make the instruction word (R44). -/
theorem fetchWord_congr {s t : State} (hpc : t.pc = s.pc) (hmem : ∀ a, t.memRead a = s.memRead a) :
    fetchWord t = fetchWord s := by
  simp [fetchWord, hpc, hmem]

/-! ### The bulk load -/

/-- Loading registers one after another gives each register of the list its byte and changes the registers only. -/
theorem loadFold_reg (x : Reg) (val : Reg → Byte) (l : List Reg) (t : State) (k : Reg) :
    (l.foldl (fun t k => if k ≤ x then t.setReg k (val k) else t) t).reg k =
      if k ∈ l ∧ k ≤ x then val k else t.reg k := by
  induction l generalizing t with
  | nil => simp
  | cons j l ih =>
    rw [List.foldl_cons, ih]
    by_cases hx : k ≤ x
    · by_cases hkl : k ∈ l
      · simp [hkl, hx]
      · by_cases hkj : k = j
        · subst hkj
          simp [hx]
        · by_cases hjx : j ≤ x <;> simp [hkl, hkj, hjx, State.setReg_reg]
    · by_cases hjx : j ≤ x
      · have hkj : k ≠ j := fun h => hx (h ▸ hjx)
        simp [hx, hjx, State.setReg_reg, hkj]
      · simp [hx, hjx]

theorem loadFold_eq (x : Reg) (val : Reg → Byte) (l : List Reg) (t : State) :
    ∃ v, l.foldl (fun t k => if k ≤ x then t.setReg k (val k) else t) t = { t with v := v } := by
  induction l generalizing t with
  | nil => exact ⟨t.v, rfl⟩
  | cons j l ih =>
    obtain ⟨v, hv⟩ := ih (if j ≤ x then t.setReg j (val j) else t)
    refine ⟨v, hv.trans ?_⟩
    split <;> rfl

/-- LD Vx, [I]: `V0` .. `Vx` from memory, the registers above as they were (R145). -/
theorem State.loadRegs_reg (s : State) (x k : Reg) :
    (s.loadRegs x).reg k = if k ≤ x then s.memRead (s.i.toNat + k.val) else s.reg k := by
  simp [State.loadRegs, loadFold_reg x (fun k => s.memRead (s.i.toNat + k.val))]

/-- … and nothing but the V registers changes. -/
theorem State.loadRegs_eq (s : State) (x : Reg) : ∃ v, s.loadRegs x = { s with v := v } :=
  loadFold_eq x (fun k => s.memRead (s.i.toNat + k.val)) (List.finRange 16) s

@[simp] theorem State.loadRegs_i (s : State) (x : Reg) : (s.loadRegs x).i = s.i := by
  obtain ⟨v, h⟩ := s.loadRegs_eq x
  rw [h]

@[simp] theorem State.loadRegs_pc (s : State) (x : Reg) : (s.loadRegs x).pc = s.pc := by
  obtain ⟨v, h⟩ := s.loadRegs_eq x
  rw [h]

@[simp] theorem State.loadRegs_mem (s : State) (x : Reg) : (s.loadRegs x).mem = s.mem := by
  obtain ⟨v, h⟩ := s.loadRegs_eq x
  rw [h]

@[simp] theorem State.loadRegs_stack (s : State) (x : Reg) : (s.loadRegs x).stack = s.stack := by
  obtain ⟨v, h⟩ := s.loadRegs_eq x
  rw [h]

@[simp] theorem State.loadRegs_sp (s : State) (x : Reg) : (s.loadRegs x).sp = s.sp := by
  obtain ⟨v, h⟩ := s.loadRegs_eq x
  rw [h]

@[simp] theorem State.loadRegs_dt (s : State) (x : Reg) : (s.loadRegs x).dt = s.dt := by
  obtain ⟨v, h⟩ := s.loadRegs_eq x
  rw [h]

@[simp] theorem State.loadRegs_st (s : State) (x : Reg) : (s.loadRegs x).st = s.st := by
  obtain ⟨v, h⟩ := s.loadRegs_eq x
  rw [h]

@[simp] theorem State.loadRegs_fb (s : State) (x : Reg) : (s.loadRegs x).fb = s.fb := by
  obtain ⟨v, h⟩ := s.loadRegs_eq x
  rw [h]

@[simp] theorem State.loadRegs_changed (s : State) (x : Reg) : (s.loadRegs x).changed = s.changed := by
  obtain ⟨v, h⟩ := s.loadRegs_eq x
  rw [h]

@[simp] theorem State.loadRegs_key (s : State) (x : Reg) : (s.loadRegs x).key = s.key := by
  obtain ⟨v, h⟩ := s.loadRegs_eq x
  rw [h]

@[simp] theorem State.loadRegs_wait (s : State) (x : Reg) : (s.loadRegs x).wait = s.wait := by
  obtain ⟨v, h⟩ := s.loadRegs_eq x
  rw [h]

@[simp] theorem State.loadRegs_ready (s : State) (x : Reg) : (s.loadRegs x).ready = s.ready := by
  obtain ⟨v, h⟩ := s.loadRegs_eq x
  rw [h]

@[simp] theorem State.loadRegs_draws (s : State) (x : Reg) : (s.loadRegs x).draws = s.draws := by
  obtain ⟨v, h⟩ := s.loadRegs_eq x
  rw [h]

@[simp] theorem State.loadRegs_stackAt (s : State) (x : Reg) (k : Fin 16) :
    (s.loadRegs x).stackAt k = s.stackAt k := by
  obtain ⟨v, h⟩ := s.loadRegs_eq x
  rw [h]
  rfl

@[simp] theorem State.loadRegs_keyDown (s : State) (x : Reg) (k : Reg) :
    (s.loadRegs x).keyDown k = s.keyDown k := by
  obtain ⟨v, h⟩ := s.loadRegs_eq x
  rw [h]
  rfl

@[simp] theorem State.loadRegs_memRead (s : State) (x : Reg) (a : Nat) :
    (s.loadRegs x).memRead a = s.memRead a := by
  obtain ⟨v, h⟩ := s.loadRegs_eq x
  rw [h]
  rfl

/-! ### Drawing -/

/-- One sprite bit: a 1 flips its own cell and no other; a collision when that cell was on (R91). -/
theorem drawPixel_cell (bit : Bool) (px py : Nat) (d : Drawing) (k : Nat) (hk : k < 2048) :
    (drawPixel bit px py d).1[k] = (d.1[k] ^^ (bit && decide (k = (cellIndex px py).val))) := by
  unfold drawPixel
  cases bit with
  | false => simp
  | true =>
    by_cases h : k = (cellIndex px py).val
    · subst h
      simp
    · have h' : (cellIndex px py).val ≠ k := fun e => h e.symm
      simp [h, h']

theorem drawPixel_collision (bit : Bool) (px py : Nat) (d : Drawing) :
    (drawPixel bit px py d).2 = (d.2 || (bit && d.1[(cellIndex px py).val])) := by
  cases bit <;> simp [drawPixel]

theorem spriteRows_length (s : State) (n : Fin 16) : (spriteRows s n).length = n.val := by
  simp [spriteRows]

theorem spriteRows_getElem (s : State) (n : Fin 16) (r : Nat) (h : r < (spriteRows s n).length) :
    (spriteRows s n)[r] = s.memRead (s.i.toNat + r) := by
  simp [spriteRows]

end Sys2Proof.Machine
end

