-- ==== Sys2Proof/Laws/HostOps.lean ====
section
/-! SUPPORT. The laws of the host operations: what one does to a timer, when STEP is held, and how runs compose. -/

namespace Sys2Proof.Machine

/-- The count-down by 1, floored at 0 (R180). -/
@[simp] theorem countDown_toNat (b : Byte) : (countDown b).toNat = b.toNat - 1 := by
  unfold countDown
  split
  · subst ‹b = 0›
    rfl
  · have hpos : b.toNat ≠ 0 := fun h => ‹¬ b = 0› (BitVec.eq_of_toNat_eq (by simpa using h))
    have := b.isLt
    rw [BitVec.toNat_sub]
    simp
    omega

/-- STEP is held exactly while a key-wait is pending or the engine is Unloaded (R80). -/
theorem State.held_iff (s : State) : s.held = true ↔ s.wait ≠ none ∨ s.ready = false := by
  simp [State.held, Option.isSome_iff_ne_none]

/-- A STEP that is held answers the state it was given (R80). -/
theorem step_of_held (s : State) (h : s.held = true) : step s = .next s := by
  simp [step, h]

/-- A STEP that is not held executes the decoded instruction (R81). -/
theorem step_of_decode (s : State) (i : Instr) (h : s.held = false) (hd : decodeWord (fetchWord s) = .ok i) :
    step s = exec i s := by
  simp [step, h, hd]

/-- A STEP that is not held executes a word that selects no instruction as the no-op (R87). -/
theorem step_of_reject (s : State) (r : DecodeReject) (h : s.held = false) (hd : decodeWord (fetchWord s) = .error r) :
    step s = .next s.advance := by
  simp [step, h, hd, execUnmatched, sequential]

/-- The state after an operation that completes. -/
theorem HostOp.after_of_next {op : HostOp} {s t : State} (h : op.apply s = .next t) : op.after s = t := by
  simp [HostOp.after, h]

/-- A run of two sequences, one after the other. -/
theorem runOps_append (ops ops' : List HostOp) (s : State) : runOps (ops ++ ops') s = runOps ops' (runOps ops s) := by
  induction ops generalizing s with
  | nil => rfl
  | cons op ops ih => exact ih (op.after s)

/-- The induction of every safety claim, once: what CONSTRUCT gives and every operation keeps holds of every reachable
state. -/
theorem reachable_induction {P : State → Prop} (h0 : P State.reset) (hop : ∀ (op : HostOp) s, P s → P (op.after s)) {s : State}
    (hs : Reachable s) : P s := by
  obtain ⟨ops, rfl⟩ := hs
  have go : ∀ (ops : List HostOp) s, P s → P (runOps ops s) := by
    intro ops
    induction ops with
    | nil => exact fun s h => h
    | cons op ops ih => exact fun s h => ih _ (hop op s h)
  exact go ops _ h0

end Sys2Proof.Machine
end

