-- ==== Sys2Proof/Laws/PerInstr.lean ====
section
/-! SUPPORT. Laws of every instruction as syntax, one lemma per constructor. The family RowPattern: the word of an
instruction agrees with the mask and the match of its row of 30_encoding.md R64, whatever its operands. -/

namespace Sys2Proof.Laws

theorem and_ones4 (a : BitVec 4) : a &&& 0xF#4 = a := BitVec.and_allOnes

theorem and_ones8 (a : BitVec 8) : a &&& 0xFF#8 = a := BitVec.and_allOnes

/-! ### Masking the word of each shape: the fixed nibbles stay, the operands go -/

theorem and_shapeNNN (a : BitVec 4) (nnn : Addr12) : shapeNNN a nnn &&& 0xF000#16 = a ++ 0#12 := by
  rw [show (0xF000#16 : Word) = 0xF#4 ++ 0x000#12 from rfl, shapeNNN]
  erw [BitVec.and_append]
  rw [and_ones4, BitVec.and_zero]

theorem and_shapeXKK (a : BitVec 4) (x : Reg) (kk : Byte) : shapeXKK a x kk &&& 0xF000#16 = a ++ 0#12 := by
  rw [show (0xF000#16 : Word) = 0xF#4 ++ 0x0#4 ++ 0x00#8 from rfl, shapeXKK]
  erw [BitVec.and_append, BitVec.and_append]
  rw [and_ones4, BitVec.and_zero, BitVec.and_zero]
  revert a
  decide

theorem and_shapeXKK_kk (a : BitVec 4) (x : Reg) (kk : Byte) :
    shapeXKK a x kk &&& 0xF0FF#16 = a ++ 0#4 ++ kk := by
  rw [show (0xF0FF#16 : Word) = 0xF#4 ++ 0x0#4 ++ 0xFF#8 from rfl, shapeXKK]
  erw [BitVec.and_append, BitVec.and_append]
  rw [and_ones4, and_ones8, BitVec.and_zero]

theorem and_shapeXYN (a : BitVec 4) (x y : Reg) (n : BitVec 4) :
    shapeXYN a x y n &&& 0xF00F#16 = a ++ 0#4 ++ 0#4 ++ n := by
  rw [show (0xF00F#16 : Word) = 0xF#4 ++ 0x0#4 ++ 0x0#4 ++ 0xF#4 from rfl, shapeXYN]
  erw [BitVec.and_append, BitVec.and_append, BitVec.and_append]
  rw [and_ones4, and_ones4, BitVec.and_zero, BitVec.and_zero]

theorem and_shapeXYN_top (a : BitVec 4) (x y : Reg) (n : BitVec 4) :
    shapeXYN a x y n &&& 0xF000#16 = a ++ 0#4 ++ 0#4 ++ 0#4 := by
  rw [show (0xF000#16 : Word) = 0xF#4 ++ 0x0#4 ++ 0x0#4 ++ 0x0#4 from rfl, shapeXYN]
  erw [BitVec.and_append, BitVec.and_append, BitVec.and_append]
  rw [and_ones4, BitVec.and_zero, BitVec.and_zero, BitVec.and_zero]

/-- The word of the instruction lies in its row of R64. -/
def RowPattern.Statement (i : Instr) : Prop := encode i &&& (opcodeRow i).1 = (opcodeRow i).2

theorem RowPattern.cls : RowPattern.Statement (.cls) := rfl

theorem RowPattern.ret : RowPattern.Statement (.ret) := rfl

theorem RowPattern.sys (nnn : Addr12) : RowPattern.Statement (.sys nnn) := and_shapeNNN _ _

theorem RowPattern.jp (nnn : Addr12) : RowPattern.Statement (.jp nnn) := and_shapeNNN _ _

theorem RowPattern.call (nnn : Addr12) : RowPattern.Statement (.call nnn) := and_shapeNNN _ _

theorem RowPattern.seByte (x : Reg) (kk : Byte) : RowPattern.Statement (.seByte x kk) := and_shapeXKK _ _ _

theorem RowPattern.sneByte (x : Reg) (kk : Byte) : RowPattern.Statement (.sneByte x kk) := and_shapeXKK _ _ _

theorem RowPattern.seReg (x y : Reg) : RowPattern.Statement (.seReg x y) := and_shapeXYN _ _ _ _

theorem RowPattern.ldByte (x : Reg) (kk : Byte) : RowPattern.Statement (.ldByte x kk) := and_shapeXKK _ _ _

theorem RowPattern.addByte (x : Reg) (kk : Byte) : RowPattern.Statement (.addByte x kk) := and_shapeXKK _ _ _

theorem RowPattern.ldReg (x y : Reg) : RowPattern.Statement (.ldReg x y) := and_shapeXYN _ _ _ _

theorem RowPattern.orReg (x y : Reg) : RowPattern.Statement (.orReg x y) := and_shapeXYN _ _ _ _

theorem RowPattern.andReg (x y : Reg) : RowPattern.Statement (.andReg x y) := and_shapeXYN _ _ _ _

theorem RowPattern.xorReg (x y : Reg) : RowPattern.Statement (.xorReg x y) := and_shapeXYN _ _ _ _

theorem RowPattern.addReg (x y : Reg) : RowPattern.Statement (.addReg x y) := and_shapeXYN _ _ _ _

theorem RowPattern.subReg (x y : Reg) : RowPattern.Statement (.subReg x y) := and_shapeXYN _ _ _ _

theorem RowPattern.shr (x y : Reg) : RowPattern.Statement (.shr x y) := and_shapeXYN _ _ _ _

theorem RowPattern.subnReg (x y : Reg) : RowPattern.Statement (.subnReg x y) := and_shapeXYN _ _ _ _

theorem RowPattern.shl (x y : Reg) : RowPattern.Statement (.shl x y) := and_shapeXYN _ _ _ _

theorem RowPattern.sneReg (x y : Reg) : RowPattern.Statement (.sneReg x y) := and_shapeXYN _ _ _ _

theorem RowPattern.ldI (nnn : Addr12) : RowPattern.Statement (.ldI nnn) := and_shapeNNN _ _

theorem RowPattern.jpV0 (nnn : Addr12) : RowPattern.Statement (.jpV0 nnn) := and_shapeNNN _ _

theorem RowPattern.rnd (x : Reg) (kk : Byte) : RowPattern.Statement (.rnd x kk) := and_shapeXKK _ _ _

theorem RowPattern.drw (x y : Reg) (n : Fin 16) : RowPattern.Statement (.drw x y n) := and_shapeXYN_top _ _ _ _

theorem RowPattern.skp (x : Reg) : RowPattern.Statement (.skp x) := and_shapeXKK_kk _ _ _

theorem RowPattern.sknp (x : Reg) : RowPattern.Statement (.sknp x) := and_shapeXKK_kk _ _ _

theorem RowPattern.ldVxDT (x : Reg) : RowPattern.Statement (.ldVxDT x) := and_shapeXKK_kk _ _ _

theorem RowPattern.ldVxK (x : Reg) : RowPattern.Statement (.ldVxK x) := and_shapeXKK_kk _ _ _

theorem RowPattern.ldDTVx (x : Reg) : RowPattern.Statement (.ldDTVx x) := and_shapeXKK_kk _ _ _

theorem RowPattern.ldSTVx (x : Reg) : RowPattern.Statement (.ldSTVx x) := and_shapeXKK_kk _ _ _

theorem RowPattern.addI (x : Reg) : RowPattern.Statement (.addI x) := and_shapeXKK_kk _ _ _

theorem RowPattern.ldF (x : Reg) : RowPattern.Statement (.ldF x) := and_shapeXKK_kk _ _ _

theorem RowPattern.ldB (x : Reg) : RowPattern.Statement (.ldB x) := and_shapeXKK_kk _ _ _

theorem RowPattern.storeRegs (x : Reg) : RowPattern.Statement (.storeRegs x) := and_shapeXKK_kk _ _ _

theorem RowPattern.loadRegs (x : Reg) : RowPattern.Statement (.loadRegs x) := and_shapeXKK_kk _ _ _

end Sys2Proof.Laws
end

