-- ==== Sys2Proof/Tests/Slice0.lean ====
section
/-! SUPPORT. The model's own tests. The expected values are those of 95_test_vectors.md (T<n>, H<n>, S<n>: the vector it is
taken from stands in each comment); the words of the decode tests are written out from the patterns of 30_encoding.md R64.
At the end: for each statement with hypotheses, a state and operands that meet them. -/

namespace Sys2Proof.Tests

open Sys2Proof Sys2Proof.Machine Sys2Proof.Claims

/-- The start state of 95_test_vectors.md: after CONSTRUCT and LOAD of an empty image. -/
def base : State := { State.reset with ready := true }

/-- The state after one STEP on the word given, placed at the pc; none if the STEP does not complete. -/
def stepOn (w : Nat) (s : State) : Option State :=
  match step (s.withFetchWord 16 w) with
  | .next t => some t
  | .fault _ => none
  | .refused _ => none

/-- `base` with bytes at an address. -/
def withBytes (addr : Nat) (bs : List Byte) (s : State) : State := s.memWriteBytes addr bs

/-- `s` with one cell of the display on. -/
def withCell (k : Fin 2048) (s : State) : State := { s with fb := s.fb.set k.val true }

/-- `s` with a stack pointer and one stack entry. -/
def withStack (sp : Fin 17) (k : Fin 16) (w : Word) (s : State) : State :=
  { s with sp := sp, stack := s.stack.set k.val w }

/-! ### WellFormed: the one check refuses its ill-formed terms, and only those -/

theorem test_wf_refuses_sys_as_cls : (Instr.sys 0x0E0#12).wf = false := by decide
theorem test_wf_refuses_sys_as_ret : (Instr.sys 0x0EE#12).wf = false := by decide
theorem test_wf_accepts_other_sys : (Instr.sys 0x0E1#12).wf = true ∧ (Instr.sys 0x000#12).wf = true := by decide

/-! ### Decode: every row's word, bit by bit from its pattern in R64 -/

/-- 0nnn, 00E0, 00EE. -/
theorem test_decode_zero_rows :
    decodeWord 0b0000000011100000#16 = .ok .cls ∧ decodeWord 0b0000000011101110#16 = .ok .ret ∧
    decodeWord 0b0000001000110100#16 = .ok (.sys 0x234#12) ∧ decodeWord 0b0000000011100001#16 = .ok (.sys 0x0E1#12) := by
  decide

/-- 1nnn, 2nnn, Annn, Bnnn. -/
theorem test_decode_nnn_rows :
    decodeWord 0b0001001000110100#16 = .ok (.jp 0x234#12) ∧ decodeWord 0b0010101010111100#16 = .ok (.call 0xABC#12) ∧
    decodeWord 0b1010001011110000#16 = .ok (.ldI 0x2F0#12) ∧ decodeWord 0b1011001100000000#16 = .ok (.jpV0 0x300#12) := by
  decide

/-- 3xkk, 4xkk, 6xkk, 7xkk, Cxkk. -/
theorem test_decode_xkk_rows :
    decodeWord 0b0011001000110011#16 = .ok (.seByte 2 0x33#8) ∧
    decodeWord 0b0100111100000000#16 = .ok (.sneByte 15 0x00#8) ∧
    decodeWord 0b0110101001111111#16 = .ok (.ldByte 10 0x7F#8) ∧
    decodeWord 0b0111000000000010#16 = .ok (.addByte 0 0x02#8) ∧
    decodeWord 0b1100000000001111#16 = .ok (.rnd 0 0x0F#8) := by decide

/-- 5xy0, 9xy0, Dxyn. -/
theorem test_decode_xy_rows :
    decodeWord 0b0101000100100000#16 = .ok (.seReg 1 2) ∧ decodeWord 0b1001000100100000#16 = .ok (.sneReg 1 2) ∧
    decodeWord 0b1101000100100101#16 = .ok (.drw 1 2 5) := by decide

/-- 8xy0 to 8xy7 and 8xyE, with x = 2 and y = 3. -/
theorem test_decode_8_rows :
    decodeWord 0b1000001000110000#16 = .ok (.ldReg 2 3) ∧ decodeWord 0b1000001000110001#16 = .ok (.orReg 2 3) ∧
    decodeWord 0b1000001000110010#16 = .ok (.andReg 2 3) ∧ decodeWord 0b1000001000110011#16 = .ok (.xorReg 2 3) ∧
    decodeWord 0b1000001000110100#16 = .ok (.addReg 2 3) ∧ decodeWord 0b1000001000110101#16 = .ok (.subReg 2 3) ∧
    decodeWord 0b1000001000110110#16 = .ok (.shr 2 3) ∧ decodeWord 0b1000001000110111#16 = .ok (.subnReg 2 3) ∧
    decodeWord 0b1000001000111110#16 = .ok (.shl 2 3) := by decide

/-- Ex9E, ExA1 and Fx07 to Fx65. -/
theorem test_decode_x_rows :
    decodeWord 0b1110000110011110#16 = .ok (.skp 1) ∧ decodeWord 0b1110000110100001#16 = .ok (.sknp 1) ∧
    decodeWord 0b1111001100000111#16 = .ok (.ldVxDT 3) ∧ decodeWord 0b1111010100001010#16 = .ok (.ldVxK 5) ∧
    decodeWord 0b1111001100010101#16 = .ok (.ldDTVx 3) ∧ decodeWord 0b1111001100011000#16 = .ok (.ldSTVx 3) ∧
    decodeWord 0b1111000100011110#16 = .ok (.addI 1) ∧ decodeWord 0b1111010000101001#16 = .ok (.ldF 4) ∧
    decodeWord 0b1111001100110011#16 = .ok (.ldB 3) ∧ decodeWord 0b1111001001010101#16 = .ok (.storeRegs 2) ∧
    decodeWord 0b1111001001100101#16 = .ok (.loadRegs 2) := by decide

/-- R66: words that select no instruction, one of each line of its table. -/
theorem test_decode_rejects_by_name :
    decodeWord 0x5121#16 = .error (.noRow 0x5121#16) ∧ decodeWord 0x8018#16 = .error (.noRow 0x8018#16) ∧
    decodeWord 0x9121#16 = .error (.noRow 0x9121#16) ∧ decodeWord 0xE19F#16 = .error (.noRow 0xE19F#16) ∧
    decodeWord 0xF1FF#16 = .error (.noRow 0xF1FF#16) := by decide

/-- Bytes: the first is the more significant (R42), the rest is given back, and one byte is too few. -/
theorem test_decode_bytes :
    decodeBytes [0x6A#8, 0x7F#8, 0x12#8] = .ok (.ldByte 10 0x7F#8, [0x12#8]) ∧
    decodeBytes [0x6A#8] = .error (.truncated 1) ∧ encodeBytes (.ldByte 10 0x7F#8) = [0x6A#8, 0x7F#8] := by decide

/-! ### One STEP: display -/

/-- T1, T2. -/
theorem test_cls :
    (stepOn 0x00E0 ((withCell 100 base).setReg 15 7)).map (fun t => (t.fb[100], t.changed, t.reg 15, t.pc)) =
      some (false, true, 7, 0x202) := by decide

/-- T4: horizontal wrap stays in row 31. -/
theorem test_drw_wraps_right :
    (stepOn 0xD011 ((((withBytes 0x300 [0xC0] base).setI 0x300).setReg 0 63).setReg 1 31)).map
      (fun t => (t.fb[2047], t.fb[1984], t.fb[2046], t.fb[1985], t.reg 15, t.changed)) =
      some (true, true, false, false, 0, true) := by decide +kernel

/-- T8: a collision. -/
theorem test_drw_collides :
    (stepOn 0xD011 ((withBytes 0x300 [0x81] (withCell 0 base)).setI 0x300)).map
      (fun t => (t.fb[0], t.fb[7], t.reg 15, t.pc)) = some (false, true, 1, 0x202) := by decide +kernel

/-! ### One STEP: control flow -/

/-- T160, T164: only 00E0 clears. -/
theorem test_sys : (stepOn 0x00E1 (withCell 5 base)).map (fun t => (t.fb[5], t.pc)) = some (true, 0x202) := by decide

/-- T162: a word that selects no instruction. -/
theorem test_unmatched :
    (stepOn 0x8018 ((base.setReg 0 7).setReg 1 9)).map (fun t => (t.reg 0, t.reg 1, t.reg 15, t.pc)) =
      some (7, 9, 0, 0x202) := by decide

/-- T20. -/
theorem test_jp : (stepOn 0x1234 base).map (fun t => t.pc) = some 0x234 := by decide

/-- T23: the sum is not reduced. -/
theorem test_jpV0 : (stepOn 0xBFFF (base.setReg 0 0xFF)).map (fun t => t.pc) = some 0x10FE := by decide

/-- T25: the 17th call overwrites slot 15. -/
theorem test_call_full :
    (stepOn 0x2300 (withStack 16 15 0xABC base)).map (fun t => (t.stackAt 15, t.sp, t.pc)) =
      some (0x202, 16, 0x300) := by decide

/-- T26. -/
theorem test_call_last_free :
    (stepOn 0x2300 { withStack 15 14 0xABC base with pc := 0x400 }).map (fun t => (t.stackAt 15, t.stackAt 14, t.sp)) =
      some (0x402, 0xABC, 16) := by decide

/-- T30. -/
theorem test_ret_full :
    (stepOn 0x00EE { withStack 16 15 0x222 base with pc := 0x300 }).map (fun t => (t.pc, t.sp, t.stackAt 15)) =
      some (0x222, 15, 0x222) := by decide

/-- T29: the empty stack. -/
theorem test_ret_empty :
    (stepOn 0x00EE { withStack 0 0 0x456 base with pc := 0x300 }).map (fun t => (t.pc, t.sp)) = some (0x456, 0) := by
  decide

/-! ### One STEP: skips -/

/-- T40, T41. -/
theorem test_seByte :
    (stepOn 0x3233 (base.setReg 2 0x33)).map (fun t => t.pc) = some 0x204 ∧
    (stepOn 0x3233 (base.setReg 2 0x34)).map (fun t => t.pc) = some 0x202 := by decide

/-- T51: a skip wraps. -/
theorem test_seByte_wraps : (stepOn 0x3000 { base with pc := 0xFFFE }).map (fun t => t.pc) = some 0x0002 := by decide

/-- T42, T43. -/
theorem test_sneByte :
    (stepOn 0x4233 (base.setReg 2 0x33)).map (fun t => t.pc) = some 0x202 ∧
    (stepOn 0x4233 (base.setReg 2 0x34)).map (fun t => t.pc) = some 0x204 := by decide

/-- T44, T45. -/
theorem test_seReg :
    (stepOn 0x5120 ((base.setReg 1 5).setReg 2 5)).map (fun t => t.pc) = some 0x204 ∧
    (stepOn 0x5120 ((base.setReg 1 5).setReg 2 6)).map (fun t => t.pc) = some 0x202 := by decide

/-- T47, T48. -/
theorem test_sneReg :
    (stepOn 0x9120 ((base.setReg 1 5).setReg 2 6)).map (fun t => t.pc) = some 0x204 ∧
    (stepOn 0x9120 ((base.setReg 1 5).setReg 2 5)).map (fun t => t.pc) = some 0x202 := by decide

/-! ### One STEP: register operations -/

/-- T60. -/
theorem test_ldByte : (stepOn 0x6A7F base).map (fun t => (t.reg 10, t.pc)) = some (0x7F, 0x202) := by decide

/-- T63: wraps, VF stays. -/
theorem test_addByte :
    (stepOn 0x7002 ((base.setReg 0 0xFF).setReg 15 1)).map (fun t => (t.reg 0, t.reg 15)) = some (0x01, 1) := by decide

/-- T65. -/
theorem test_ldReg : (stepOn 0x8230 (base.setReg 3 9)).map (fun t => (t.reg 2, t.reg 3)) = some (9, 9) := by decide

/-- T66. -/
theorem test_orReg :
    (stepOn 0x8011 (((base.setReg 0 0xF0).setReg 1 0x0F).setReg 15 1)).map (fun t => (t.reg 0, t.reg 15)) =
      some (0xFF, 1) := by decide

/-- T67. -/
theorem test_andReg :
    (stepOn 0x8012 (((base.setReg 0 0xF0).setReg 1 0x3C).setReg 15 1)).map (fun t => (t.reg 0, t.reg 15)) =
      some (0x30, 1) := by decide

/-- T68. -/
theorem test_xorReg :
    (stepOn 0x8013 (((base.setReg 0 0xF0).setReg 1 0x3C).setReg 15 1)).map (fun t => (t.reg 0, t.reg 15)) =
      some (0xCC, 1) := by decide

/-- T70. -/
theorem test_addReg_carries :
    (stepOn 0x8014 ((base.setReg 0 0xFF).setReg 1 1)).map (fun t => (t.reg 0, t.reg 15)) = some (0x00, 1) := by decide

/-- T72: with x = 15 the carry wins. -/
theorem test_addReg_into_VF :
    (stepOn 0x8F14 ((base.setReg 15 0xF0).setReg 1 0x20)).map (fun t => t.reg 15) = some 1 := by decide

/-- T75. -/
theorem test_subReg_borrows :
    (stepOn 0x8015 (((base.setReg 0 1).setReg 1 5).setReg 15 1)).map (fun t => (t.reg 0, t.reg 15)) =
      some (0xFC, 0) := by decide

/-- T76. -/
theorem test_subReg_equal :
    (stepOn 0x8015 ((base.setReg 0 5).setReg 1 5)).map (fun t => (t.reg 0, t.reg 15)) = some (0, 1) := by decide

/-- T84: y is ignored. -/
theorem test_shr :
    (stepOn 0x8016 (((base.setReg 0 4).setReg 1 0xFF).setReg 15 1)).map (fun t => (t.reg 0, t.reg 1, t.reg 15)) =
      some (2, 0xFF, 0) := by decide

/-- T86: with x = 15 the flag wins (90_conflicts.md C1). -/
theorem test_shr_of_VF : (stepOn 0x8F06 (base.setReg 15 2)).map (fun t => t.reg 15) = some 0 := by decide

/-- T80, T81. -/
theorem test_subnReg :
    (stepOn 0x8017 (((base.setReg 0 5).setReg 1 1).setReg 15 1)).map (fun t => (t.reg 0, t.reg 15)) = some (0xFC, 0) ∧
    (stepOn 0x8017 ((base.setReg 0 1).setReg 1 5)).map (fun t => (t.reg 0, t.reg 15)) = some (4, 1) := by decide

/-- T87: the raw bit 7. -/
theorem test_shl : (stepOn 0x800E (base.setReg 0 0x81)).map (fun t => (t.reg 0, t.reg 15)) = some (0x02, 0x80) := by decide

/-- T91. -/
theorem test_shl_of_VF : (stepOn 0x8F0E (base.setReg 15 0x41)).map (fun t => t.reg 15) = some 0x00 := by decide

/-- T93: whatever is drawn. -/
theorem test_rnd_mask_zero (t : State) (h : exec (.rnd 0 0x00) (base.setReg 0 9) = .next t) : t.reg 0 = 0 := by
  cases h
  simp

/-! ### One STEP: index and memory -/

/-- T100. -/
theorem test_ldI : (stepOn 0xA2F0 base).map (fun t => (t.i, t.pc)) = some (0x02F0, 0x202) := by decide

/-- T103, T102. -/
theorem test_addI :
    (stepOn 0xF11E ((base.setI 0xFFFF).setReg 1 2)).map (fun t => t.i) = some 0x0001 ∧
    (stepOn 0xF11E ((base.setI 0x0FFF).setReg 1 2)).map (fun t => (t.i, t.reg 15)) = some (0x1001, 0) := by decide

/-- T105, T106. -/
theorem test_ldF :
    (stepOn 0xF429 (base.setReg 4 0x1A)).map (fun t => t.i) = some 0x0082 ∧
    (stepOn 0xF429 (base.setReg 4 0xFF)).map (fun t => t.i) = some 0x04FB := by decide

/-- T107, the source's own example. -/
theorem test_ldB :
    (stepOn 0xF333 ((base.setReg 3 230).setI 0x300)).map
      (fun t => (t.memRead 0x300, t.memRead 0x301, t.memRead 0x302, t.i)) = some (2, 3, 0, 0x300) := by decide

/-- T110: the addresses wrap. -/
theorem test_ldB_wraps :
    (stepOn 0xF333 ((base.setReg 3 123).setI 0x0FFE)).map
      (fun t => (t.memRead 0xFFE, t.memRead 0xFFF, t.memRead 0x000, t.memRead 0x001)) = some (1, 2, 3, 0x90) := by decide

/-- T112. -/
theorem test_storeRegs :
    (stepOn 0xF255 (((((base.setReg 0 1).setReg 1 2).setReg 2 3).setReg 3 4).setI 0x400)).map
      (fun t => (t.memRead 0x400, t.memRead 0x401, t.memRead 0x402, t.memRead 0x403, t.i)) =
      some (1, 2, 3, 0, 0x400) := by decide

/-- T115. -/
theorem test_storeRegs_wraps :
    (stepOn 0xF155 (((base.setReg 0 0x11).setReg 1 0x22).setI 0x0FFF)).map
      (fun t => (t.memRead 0xFFF, t.memRead 0x000)) = some (0x11, 0x22) := by decide

/-- T116. -/
theorem test_loadRegs :
    (stepOn 0xF265 (((withBytes 0x400 [0x0A, 0x0B, 0x0C, 0x0D] base).setReg 3 0x77).setI 0x400)).map
      (fun t => (t.reg 0, t.reg 1, t.reg 2, t.reg 3, t.i)) = some (0x0A, 0x0B, 0x0C, 0x77, 0x400) := by decide

/-- T118: the addresses wrap, into the font. -/
theorem test_loadRegs_wraps :
    (stepOn 0xF165 ((withBytes 0xFFF [0x5A] base).setI 0x0FFF)).map (fun t => (t.reg 0, t.reg 1)) =
      some (0x5A, 0xF0) := by decide

/-! ### One STEP: timers, input, fetch -/

/-- T130. -/
theorem test_ldVxDT : (stepOn 0xF307 (base.setDT 0x2A)).map (fun t => (t.reg 3, t.dt)) = some (0x2A, 0x2A) := by decide

/-- T131. -/
theorem test_ldDTVx : (stepOn 0xF315 (base.setReg 3 0x3C)).map (fun t => (t.dt, t.st)) = some (0x3C, 0) := by decide

/-- T132. -/
theorem test_ldSTVx : (stepOn 0xF318 (base.setReg 3 5)).map (fun t => (t.st, t.dt)) = some (5, 0) := by decide

/-- T144, T145: clamped, not masked. -/
theorem test_skp :
    (stepOn 0xE19E ((base.setReg 1 0x1A).setKey 15 true)).map (fun t => t.pc) = some 0x204 ∧
    (stepOn 0xE19E ((base.setReg 1 0x1A).setKey 10 true)).map (fun t => t.pc) = some 0x202 := by decide

/-- T142, T143. -/
theorem test_sknp :
    (stepOn 0xE1A1 (base.setReg 1 0x0A)).map (fun t => t.pc) = some 0x204 ∧
    (stepOn 0xE1A1 ((base.setReg 1 0x0A).setKey 10 true)).map (fun t => t.pc) = some 0x202 := by decide

/-- T147: a key already held does not satisfy the wait. -/
theorem test_ldVxK :
    (stepOn 0xF50A (base.setKey 3 true)).map (fun t => (t.wait, t.pc, t.reg 5)) = some (some 5, 0x202, 0) := by decide

/-- T165, T166, T167, T168: an odd pc, and fetch addresses reduced while the pc is not. -/
theorem test_fetch_corners :
    (stepOn 0x6012 { base with pc := 0x201 }).map (fun t => (t.reg 0, t.pc)) = some (0x12, 0x203) ∧
    (stepOn 0x60F0 { base with pc := 0x0FFF }).map (fun t => (t.reg 0, t.pc)) = some (0xF0, 0x1001) ∧
    (stepOn 0x6012 { base with pc := 0x1200 }).map (fun t => (t.reg 0, t.memRead 0x200, t.pc)) =
      some (0x12, 0x60, 0x1202) ∧
    (stepOn 0x6012 { base with pc := 0xFFFE }).map (fun t => (t.reg 0, t.pc)) = some (0x12, 0x0000) := by decide

/-- S6, H2: while a key-wait is pending, and while Unloaded, STEP does nothing. -/
theorem test_held :
    step { base with wait := some 5 } = .next { base with wait := some 5 } ∧ step State.reset = .next State.reset :=
  ⟨rfl, rfl⟩

/-! ### Host operations -/

/-- H8, H9. -/
theorem test_tick :
    (tick (base.setDT 1)).dt = 0 ∧ (tick (base.setST 200)).st = 199 ∧ (tick (base.setST 200)).dt = 0 := by decide

/-- H14: the clamp, and the waiting register is VF. -/
theorem test_keyPress :
    (keyPress 200 { base with wait := some 15 }).keyDown 15 = true ∧
    (keyPress 200 { base with wait := some 15 }).reg 15 = 15 ∧
    (keyPress 200 { base with wait := some 15 }).wait = none := by decide

/-- H15. -/
theorem test_keyRelease :
    (keyRelease 3 { base.setKey 3 true with wait := some 5 }).keyDown 3 = false ∧
    (keyRelease 3 { base.setKey 3 true with wait := some 5 }).wait = some 5 := by decide

/-- H3. -/
theorem test_load :
    ((HostOp.load [0x12, 0x00]).after State.reset).memRead 0x200 = 0x12 ∧
    ((HostOp.load [0x12, 0x00]).after State.reset).ready = true := by decide

/-- H5: one byte too many. -/
theorem test_load_oversized (s : State) :
    (HostOp.load (List.replicate 3585 0xAB#8)).apply s = .refused .oversizedProgram := by
  have h : ¬ (List.replicate 3585 (0xAB#8)).length ≤ Config.progMax := by
    rw [List.length_replicate]
    decide
  rw [HostOp.apply, load, if_neg h]

/-- H18: what RESTART keeps and clears. -/
theorem test_restart :
    (restart { (withBytes 0x000 [0x03] base).setReg 3 7 with wait := some 3, changed := true }).memRead 0 = 0x03 ∧
    (restart { (withBytes 0x000 [0x03] base).setReg 3 7 with wait := some 3, changed := true }).reg 3 = 0 ∧
    (restart { (withBytes 0x000 [0x03] base).setReg 3 7 with wait := some 3, changed := true }).wait = none ∧
    (restart { (withBytes 0x000 [0x03] base).setReg 3 7 with wait := some 3, changed := true }).ready = true := by decide

/-- H19: UNLOAD restores the font and leaves Unloaded. -/
theorem test_unload :
    (unload (withBytes 0x000 [0x03] base)).memRead 0 = 0xF0 ∧ (unload (withBytes 0x000 [0x03] base)).ready = false := by
  decide

/-- R22, R187: the last glyph's bytes, and the sound line. -/
theorem test_font_and_sound :
    State.reset.memRead 0x04B = 0xF0 ∧ State.reset.memRead 0x04F = 0x80 ∧ State.reset.memRead 0x050 = 0 ∧
    (readOutputs (base.setST 1)).audible = true ∧ (readOutputs base).audible = false := by decide

/-! ### Witnesses: each statement's hypotheses are met, all together -/

theorem witness_DecodeOfEncode : (Instr.sys 0x0EF#12).wf = true ∧ (Instr.drw 15 15 15).wf = true := by decide

theorem witness_EncodeOfDecode : decodeWord 0x00E0#16 = .ok .cls ∧ decodeWord 0xFF65#16 = .ok (.loadRegs 15) := by decide

theorem witness_DecodedWordMatchesItsRow : decodeWord 0x8FFE#16 = .ok (.shl 15 15) := by decide

theorem witness_StepRuns :
    base.wait = none ∧ base.ready = true ∧ base.memRead (0x200 % 4096) = 0x00 ∧ base.memRead (0x201 % 4096) = 0x00 ∧
    decodeBytes [0x00#8, 0x00#8] = .ok (.sys 0#12, []) := by decide

theorem witness_PlacedWord :
    Memory.wf State.reset.mem = true ∧ 0xFFFF < 65536 ∧ decodeTableWord 16 0xD015 = some (.drw 0 1 5) := by decide

theorem witness_HeldSteps :
    (∃ r, (base.setWait (some 15)).wait = some r) ∧ State.reset.ready = false := ⟨⟨15, rfl⟩, rfl⟩

theorem witness_UnmatchedWord :
    (base.withFetchWord 16 0x5121).wait = none ∧ (base.withFetchWord 16 0x5121).ready = true ∧
    decodeWord (fetchWord (base.withFetchWord 16 0x5121)) = .error (.noRow 0x5121#16) := by decide

/-- A skip taken and not taken, at the pc where both wrap. -/
theorem witness_EveryPcMove :
    isJump (.seByte 0 0) = false ∧ (∃ t, exec (.seByte 0 0) { base with pc := 0xFFFE } = .next t) ∧
    SkipIsTaken { base with pc := 0xFFFE } (.seByte 0 0) ∧ ¬ SkipIsTaken { base with pc := 0xFFFE } (.sneByte 0 0) ∧
    (∃ t, exec (.sneByte 0 0) { base with pc := 0xFFFE } = .next t) :=
  ⟨rfl, ⟨_, rfl⟩, rfl, fun h => h rfl, ⟨_, rfl⟩⟩

theorem witness_JumpToItself :
    (base.withFetchWord 16 0x1200).wait = none ∧ (base.withFetchWord 16 0x1200).ready = true ∧
    decodeWord (fetchWord (base.withFetchWord 16 0x1200)) = .ok (.jp 0x200#12) ∧
    (base.withFetchWord 16 0x1200).pc.toNat = (0x200#12).toNat := by decide

theorem witness_OnlyRndDepends :
    (∀ x kk, decodeWord (fetchWord base) ≠ .ok (.rnd x kk)) ∧ ∃ t, step base = .next t := by
  have hd : decodeWord (fetchWord base) = .ok (.sys 0#12) := by decide
  exact ⟨fun x kk => by simp [hd], ⟨_, step_of_decode _ _ (by decide) hd⟩⟩

theorem witness_DrwTwice : (0 : Reg) ≠ VF ∧ (14 : Reg) ≠ VF := by decide

/-- Both ends of each clause of CALL and RET. -/
theorem witness_CallAndRet :
    (withStack 0 0 0 base).sp.val < 16 ∧ (withStack 15 0 0 base).sp.val < 16 ∧ (withStack 16 0 0 base).sp.val = 16 ∧
    (withStack 1 0 0 base).sp.val = (0 : Fin 16).val + 1 ∧ (withStack 16 0 0 base).sp.val = (15 : Fin 16).val + 1 ∧
    (withStack 0 0 0 base).sp.val = 0 := by decide

theorem witness_SeventeenCalls :
    base.sp.val = 0 ∧ (List.replicate 17 (0x300#12)).length = 17 ∧ 1 ≤ 17 ∧ (14 : Fin 16).val < 15 := by decide

/-- Each clause of the skips, and room for the pc. -/
theorem witness_Skips :
    base.reg 0 = 0 ∧ base.reg 0 ≠ 1 ∧ base.reg 0 = base.reg 1 ∧ (base.setReg 0 1).reg 0 ≠ (base.setReg 0 1).reg 1 ∧
    base.pc.toNat + 4 < 65536 ∧ ({ base with pc := 0xFFFB } : State).pc.toNat + 4 < 65536 := by decide

/-- `x` is and is not the flag register; each flag value occurs. -/
theorem witness_FlagWriters :
    (0 : Reg) ≠ VF ∧ ((base.setReg 0 255).reg 0).toNat + ((base.setReg 1 1).reg 1).toNat > 255 ∧
    (base.reg 0).toNat < ((base.setReg 1 1).reg 1).toNat ∧ ((base.setReg 0 128).reg 0).toNat ≥ 128 := by decide

theorem witness_RndMask : (0x0F#8).getLsbD 4 = false := by decide

/-- An instruction of each clause of the flag rule. -/
theorem witness_SixInstructions :
    writesFlag (.ldByte 0 1) = false ∧ ¬ IsDestination VF (.ldByte 0 1) ∧ (∃ t, exec (.ldByte 0 1) base = .next t) ∧
    writesFlag (.drw 0 1 15) = true ∧ (∀ x y, Instr.drw 0 1 15 ≠ .shl x y) ∧ (∃ t, exec (.drw 0 1 15) base = .next t) ∧
    (∃ t, exec (.shl 15 0) base = .next t) :=
  ⟨rfl, fun h : VF = 0 => absurd h (by decide), ⟨_, rfl⟩, rfl, fun _ _ => by simp, ⟨_, rfl⟩, ⟨_, rfl⟩⟩

/-- Memory with something listed, in canonical form. -/
theorem witness_MemoryForms :
    Memory.wf (withBytes 0xFFF [0x5A, 0x11] base).mem = true ∧ (withBytes 0xFFF [0x5A, 0x11] base).mem.length = 2 := by
  decide

/-- A store over the next instruction, in the middle of memory and round its end. -/
theorem witness_StoreIsSeen :
    Memory.wf (base.setI 0x202).mem = true ∧ (1 : Reg).val = (0 : Reg).val + 1 ∧ (1 : Reg) ≤ 1 ∧
    ((base.setI 0x202).i.toNat + (0 : Reg).val) % 4096 = ((base.setI 0x202).pc.toNat + 2) % 4096 ∧
    ((0 : Word).toNat + (0 : Reg).val) % 4096 = (({ base with pc := 0xFFE } : State).pc.toNat + 2) % 4096 := by decide

theorem witness_SkipsOnAKey :
    (15 : Reg).val = min ((base.setReg 0 0xFF).reg 0).toNat 15 ∧ (15 : Reg).val = min ((base.setReg 0 15).reg 0).toNat 15 ∧
    (base.setKey 15 true).keyDown 15 = true ∧ ¬ base.keyDown 15 = true := by decide

theorem witness_KeyWaitRuns :
    (base.withFetchWord 16 0xF50A).wait = none ∧ (base.withFetchWord 16 0xF50A).ready = true ∧
    decodeWord (fetchWord (base.withFetchWord 16 0xF50A)) = .ok (.ldVxK 5) := by decide

theorem witness_KeyEvents :
    (15 : Reg).val = min 200 15 ∧ (0 : Reg).val = min 0 15 ∧ (base.setWait (some 5)).wait = some 5 ∧ base.wait = none := by
  decide

theorem witness_KeyWaitEnds :
    (base.setWait (some 5)).wait = some 5 ∧ ∃ t, HostOp.tick.apply (base.setWait (some 5)) = .next t := ⟨rfl, ⟨_, rfl⟩⟩

theorem witness_Load :
    Memory.wf base.mem = true ∧ (List.replicate 3584 (0xAB#8)).length ≤ 3584 ∧
    3584 < (List.replicate 3585 (0xAB#8)).length := by
  refine ⟨rfl, ?_, ?_⟩ <;> rw [List.length_replicate]
  exact Nat.lt_succ_self 3584

theorem witness_ChangedAndWriters :
    (∃ t, HostOp.tick.apply base = .next t) ∧ (∃ t, exec (.ldByte 0 1) base = .next t) ∧
    ({ base with changed := true } : State).changed = true ∧ Instr.ldByte 0 1 ≠ .ret ∧ Instr.ldByte 0 1 ≠ .cls :=
  ⟨⟨_, rfl⟩, ⟨_, rfl⟩, rfl, by decide, by decide⟩

theorem witness_StepKeeps : (base.withFetchWord 16 0xF50A).Inv ∧ ∃ t, step (base.withFetchWord 16 0xF50A) = .next t :=
  ⟨by decide, ⟨_, step_of_decode _ (.ldVxK 5) (by decide) (by decide)⟩⟩

theorem witness_Reachable : Reachable base := ⟨[.load []], rfl⟩

theorem witness_HostOpKeeps :
    base.Inv ∧ (∃ t, (HostOp.load [0xF5, 0x0A]).apply base = .next t) ∧ (∃ t, HostOp.restart.apply base = .next t) ∧
    ∃ t, (HostOp.keyDown 15).apply base = .next t :=
  ⟨by decide, ⟨_, rfl⟩, ⟨_, rfl⟩, ⟨_, rfl⟩⟩

end Sys2Proof.Tests
end

section
/-! The clauses that the statements about an instruction share: the frame, the advance of the pc, and SYS
(40_execution_cycle.md R84, R86). -/

namespace Sys2Proof.Claims

open Sys2Proof.Machine

/-! ### The frame -/

theorem Same.refl (p : Part) (s : State) : Same p s s := by
  cases p <;> simp [Same]

/-- The pc is no `Part`: the advance leaves every piece of state as it is (R84). -/
@[simp] theorem same_advance_iff (p : Part) (s t : State) : Same p s t.advance ↔ Same p s t := by
  cases p <;> simp [Same]

theorem KeepsAllBut.refl (parts : List Part) (regs : List Reg) (s : State) : KeepsAllBut parts regs s s :=
  ⟨fun p _ => Same.refl p s, fun _ _ => rfl⟩

/-- What an instruction keeps before its advance it keeps after it, so a frame is proved of the state before. -/
@[simp] theorem keepsAllBut_advance_iff (parts : List Part) (regs : List Reg) (s t : State) :
    KeepsAllBut parts regs s t.advance ↔ KeepsAllBut parts regs s t := by
  simp [KeepsAllBut]

/-! ### The pc -/

/-- A pc moved on by `k` modulo 2^16 is, where no wrap is involved, the sum itself. -/
theorem movesBy_of_pc_eq {s t : State} {k : Word} (h : t.pc = s.pc + k) : MovesBy k.toNat s t := by
  intro hlt
  rw [h, BitVec.toNat_add, Nat.mod_eq_of_lt hlt]

/-- An instruction that leaves the pc alone until its advance moves it by 2 (R84). -/
theorem movesBy_advance {s t : State} (h : t.pc = s.pc) : MovesBy 2 s t.advance :=
  movesBy_of_pc_eq (k := 2) (by rw [State.advance_pc, h])

/-! ### SYS -/

/-- SYS is the advance alone, whatever `nnn` is (R86). -/
theorem exec_sys (nnn : Addr12) (s : State) : exec (.sys nnn) s = .next s.advance := rfl

/-- Settles O15: SYS answers the advance, which moves the pc by 2 and is not seen by the frame. -/
theorem sysIsANoOp : Obligations.SysIsANoOp := by
  intro nnn s
  have hframe : KeepsAllBut [] [] s s.advance := (keepsAllBut_advance_iff ..).2 (KeepsAllBut.refl ..)
  exact ⟨s.advance, exec_sys nnn s, movesBy_advance rfl, hframe⟩

end Sys2Proof.Claims
end

section
/-! The framebuffer as a machine without CLS and DRW sees it: it neither reads nor writes a cell (41_display.md R92). -/

namespace Sys2Proof.Machine

/-- Another content of the framebuffer, and every other piece of state as it is: `CHANGED` as well. -/
def State.withFb (s : State) (cells : Vector Bool 2048) : State := { s with fb := cells }

/-! ### Writing `VF` again -/

/-- Of two writes to one register the later one counts. -/
theorem State.setReg_setReg_same (s : State) (x : Reg) (a b : Byte) : (s.setReg x a).setReg x b = s.setReg x b := by
  simp [State.setReg]

/-- Writing a register's own content changes nothing. -/
theorem State.setReg_reg_self (s : State) (x : Reg) : s.setReg x (s.reg x) = s := by
  simp [State.setReg, State.reg]

/-! ### The operations that decide or iterate do not look at the framebuffer -/

theorem State.skipIf_withFb (s : State) (cells : Vector Bool 2048) (cond : Bool) :
    (s.withFb cells).skipIf cond = (s.skipIf cond).withFb cells := by
  cases cond <;> rfl

/-- Every register write of the bulk load commutes with replacing the cells, so the whole fold does. -/
theorem State.loadRegs_withFb (s : State) (cells : Vector Bool 2048) (x : Reg) :
    (s.withFb cells).loadRegs x = (s.loadRegs x).withFb cells := by
  refine List.foldl_hom (fun t : State => t.withFb cells) fun t k => ?_
  split <;> rfl

/-- A skip under a condition that does not depend on the framebuffer. -/
theorem sequential_skipIf_withFb (s : State) (cells : Vector Bool 2048) (cond : Bool) :
    sequential ((s.withFb cells).skipIf cond) = .next ((s.skipIf cond).advance.withFb cells) := by
  rw [State.skipIf_withFb]
  rfl

/-! ### The instructions -/

/-- Every instruction but CLS and DRW commutes with replacing the cells of the framebuffer. -/
theorem exec_withFb {i : Instr} (hcls : i ≠ .cls) (hdrw : ∀ x y n, i ≠ .drw x y n) {s t : State}
    (h : exec i s = .next t) (cells : Vector Bool 2048) : exec i (s.withFb cells) = .next (t.withFb cells) := by
  have hboth : ∃ t', exec i s = .next t' ∧ exec i (s.withFb cells) = .next (t'.withFb cells) := by
    cases i with
    | cls => exact absurd rfl hcls
    | drw x y n => exact absurd rfl (hdrw x y n)
    | seByte | sneByte | seReg | sneReg | skp | sknp => exact ⟨_, rfl, sequential_skipIf_withFb s cells _⟩
    | loadRegs x => exact ⟨_, rfl, congrArg sequential (s.loadRegs_withFb cells x)⟩
    | _ => exact ⟨_, rfl, rfl⟩
  obtain ⟨t', ht', hcells⟩ := hboth
  cases ht'.symm.trans h
  exact hcells

/-- Replacing the cells by themselves shows that such an instruction leaves them as they are. -/
theorem exec_keeps_fb {i : Instr} (hcls : i ≠ .cls) (hdrw : ∀ x y n, i ≠ .drw x y n) {s t : State}
    (h : exec i s = .next t) : t.fb = s.fb := by
  have hself : exec i s = .next (t.withFb s.fb) := exec_withFb hcls hdrw h s.fb
  have ht : t = t.withFb s.fb := Host.Outcome.next.inj (h.symm.trans hself)
  calc t.fb = (t.withFb s.fb).fb := congrArg State.fb ht
    _ = s.fb := rfl

/-- For every instruction but DRW, CLS included, other cells make no difference outside the framebuffer. -/
theorem exec_withFb_of_ne_drw {i : Instr} (hdrw : ∀ x y n, i ≠ .drw x y n) {s t : State} (h : exec i s = .next t)
    (cells : Vector Bool 2048) : ∃ cells', exec i (s.withFb cells) = .next (t.withFb cells') := by
  by_cases hcls : i = .cls
  · subst hcls
    exact ⟨t.fb, h⟩
  · exact ⟨cells, exec_withFb hcls hdrw h cells⟩

/-- DRW takes its sprite and its coordinates from elsewhere: the cells are seen in what it draws and in `VF` only. -/
theorem exec_drw_withFb (x y : Reg) (n : Fin 16) (s : State) (cells : Vector Bool 2048) :
    ∃ drawn flag, exec (.drw x y n) (s.withFb cells) = .next ((s.setDisplay drawn).setReg VF flag).advance :=
  ⟨_, _, rfl⟩

/-- For DRW other cells make no difference outside the framebuffer and `VF`: a write to each covers what it drew and the
flag it gave. -/
theorem exec_drw_withFb_of_next {x y : Reg} {n : Fin 16} {s t : State} (h : exec (.drw x y n) s = .next t)
    (cells : Vector Bool 2048) :
    ∃ drawn flag, exec (.drw x y n) (s.withFb cells) = .next ((t.withFb drawn).setReg VF flag) := by
  obtain ⟨drawn, flag, hs⟩ := exec_drw_withFb x y n s s.fb
  obtain ⟨drawn', flag', hcells⟩ := exec_drw_withFb x y n s cells
  have ht : ((s.setDisplay drawn).setReg VF flag).advance = t := Host.Outcome.next.inj (hs.symm.trans h)
  subst ht
  refine ⟨drawn', flag', hcells.trans (congrArg _ ?_)⟩
  calc ((s.setDisplay drawn').setReg VF flag').advance
      = (((s.setDisplay drawn').setReg VF flag).setReg VF flag').advance := by rw [State.setReg_setReg_same]
    _ = ((((s.setDisplay drawn).setReg VF flag).advance).withFb drawn').setReg VF flag' := rfl

end Sys2Proof.Machine

namespace Sys2Proof.Claims

open Sys2Proof.Machine

/-- Settles O19: every instruction but CLS and DRW commutes with replacing the cells, CLS reads none, and DRW's answers on
two framebuffers agree once `VF` is written. -/
theorem framebufferIsReadOnlyByDrw : Obligations.FramebufferIsReadOnlyByDrw := by
  intro i s t cells h
  refine ⟨fun hcls hdrw => exec_keeps_fb hcls hdrw h, fun hdrw => exec_withFb_of_ne_drw hdrw h cells, ?_⟩
  by_cases hdrw : ∀ x y n, i ≠ .drw x y n
  · obtain ⟨cells', hcells⟩ := exec_withFb_of_ne_drw hdrw h cells
    refine ⟨cells', t.reg VF, hcells.trans (congrArg _ ?_)⟩
    exact ((t.withFb cells').setReg_reg_self VF).symm
  · push Not at hdrw
    obtain ⟨x, y, n, rfl⟩ := hdrw
    exact exec_drw_withFb_of_next h cells

end Sys2Proof.Claims
end

section
/-! The jumps without the stack: JP and JP V0 (42_control_flow.md R100, R101). -/

namespace Sys2Proof.Machine

/-! ### What the two jumps answer, and their targets -/

theorem exec_jp (nnn : Addr12) (s : State) : exec (.jp nnn) s = .next (s.jumpTo (zext12 nnn)) := rfl

theorem exec_jpV0 (nnn : Addr12) (s : State) :
    exec (.jpV0 nnn) s = .next (s.jumpTo (zext12 nnn + zext8 (s.reg 0))) := rfl

/-- A 12-bit address and a byte, each at its largest. -/
theorem addr12_add_byte_le (nnn : Addr12) (b : Byte) : nnn.toNat + b.toNat ≤ 0x10FE := by
  have hnnn : nnn.toNat < 2 ^ 12 := nnn.isLt
  have hb : b.toNat < 2 ^ 8 := b.isLt
  omega

/-- The 16-bit sum of a 12-bit address and a byte never wraps (R101). -/
theorem zext12_add_zext8_toNat (nnn : Addr12) (b : Byte) : (zext12 nnn + zext8 b).toNat = nnn.toNat + b.toNat := by
  have hlt : nnn.toNat + b.toNat < 2 ^ 16 := (addr12_add_byte_le nnn b).trans_lt (by decide)
  rw [BitVec.toNat_add, zext12_toNat, zext8_toNat, Nat.mod_eq_of_lt hlt]

end Sys2Proof.Machine

namespace Sys2Proof.Claims

open Sys2Proof.Machine

/-! ### The frame of a jump -/

/-- The pc is no `Part`: a jump leaves every piece of state as it is. -/
@[simp] theorem same_jumpTo_iff (p : Part) (s t : State) (w : Word) : Same p s (t.jumpTo w) ↔ Same p s t := by
  cases p <;> simp [Same]

/-- What an instruction keeps before it jumps it keeps after, so a frame is proved of the state before. -/
@[simp] theorem keepsAllBut_jumpTo_iff (parts : List Part) (regs : List Reg) (s t : State) (w : Word) :
    KeepsAllBut parts regs s (t.jumpTo w) ↔ KeepsAllBut parts regs s t := by
  simp [KeepsAllBut]

theorem keepsAllBut_jumpTo (s : State) (w : Word) : KeepsAllBut [] [] s (s.jumpTo w) :=
  (keepsAllBut_jumpTo_iff ..).2 (KeepsAllBut.refl ..)

/-! ### The statements -/

/-- Settles O20: JP answers the jump to its operand, without the advance. -/
theorem jpSetsThePc : Obligations.JpSetsThePc := fun nnn s =>
  ⟨s.jumpTo (zext12 nnn), exec_jp nnn s, zext12_toNat nnn, keepsAllBut_jumpTo ..⟩

/-- Settles O21: JP V0 answers the jump to a sum that 16 bits hold exactly. -/
theorem jpV0AddsV0 : Obligations.JpV0AddsV0 := by
  intro nnn s
  have hpc : (s.jumpTo (zext12 nnn + zext8 (s.reg 0))).pc.toNat = nnn.toNat + (s.reg 0).toNat :=
    zext12_add_zext8_toNat nnn (s.reg 0)
  have hbound : nnn.toNat + (s.reg 0).toNat ≤ 0x10FE := addr12_add_byte_le nnn (s.reg 0)
  exact ⟨_, exec_jpV0 nnn s, hpc, hpc.trans_le hbound, keepsAllBut_jumpTo ..⟩

end Sys2Proof.Claims
end

section
/-! The conditional skips on a byte and on a register (43_skip.md R110 to R113). -/

namespace Sys2Proof.Machine

/-! ### A skip is a second advance -/

@[simp] theorem State.skipIf_true (s : State) : s.skipIf true = s.advance := rfl

@[simp] theorem State.skipIf_false (s : State) : s.skipIf false = s := rfl

/-- Where a conditional skip ends, modulo 2^16 (R83). -/
theorem State.skipIf_advance_pc (s : State) (cond : Bool) :
    (s.skipIf cond).advance.pc = s.pc + if cond then 4 else 2 := by
  cases cond with
  | false => rfl
  | true => exact BitVec.add_assoc s.pc 2 2

/-! ### What the four skips answer -/

theorem exec_seByte (x : Reg) (kk : Byte) (s : State) :
    exec (.seByte x kk) s = .next (s.skipIf (s.reg x == kk)).advance := rfl

theorem exec_sneByte (x : Reg) (kk : Byte) (s : State) :
    exec (.sneByte x kk) s = .next (s.skipIf (s.reg x != kk)).advance := rfl

theorem exec_seReg (x y : Reg) (s : State) :
    exec (.seReg x y) s = .next (s.skipIf (s.reg x == s.reg y)).advance := rfl

theorem exec_sneReg (x y : Reg) (s : State) :
    exec (.sneReg x y) s = .next (s.skipIf (s.reg x != s.reg y)).advance := rfl

end Sys2Proof.Machine

namespace Sys2Proof.Claims

open Sys2Proof.Machine

/-! ### The pc and the frame of a skip -/

theorem movesBy_skipIf_taken (s : State) {cond : Bool} (h : cond = true) : MovesBy 4 s (s.skipIf cond).advance :=
  movesBy_of_pc_eq (k := 4) (by rw [State.skipIf_advance_pc, if_pos h])

theorem movesBy_skipIf_not_taken (s : State) {cond : Bool} (h : cond = false) :
    MovesBy 2 s (s.skipIf cond).advance :=
  movesBy_advance (by rw [h, State.skipIf_false])

/-- Taken or not, a skip is made of advances, and those the frame does not see. -/
theorem keepsAllBut_skipIf_advance (s : State) (cond : Bool) : KeepsAllBut [] [] s (s.skipIf cond).advance := by
  cases cond <;> simp [KeepsAllBut.refl]

/-! ### A skip under a comparison of two bytes -/

/-- The skip of SE: taken exactly when the two bytes are equal (R110, R112). -/
theorem skipIf_beq_spec (s : State) (a b : Byte) :
    (a = b → MovesBy 4 s (s.skipIf (a == b)).advance) ∧ (a ≠ b → MovesBy 2 s (s.skipIf (a == b)).advance) ∧
      KeepsAllBut [] [] s (s.skipIf (a == b)).advance :=
  ⟨fun h => movesBy_skipIf_taken s (beq_iff_eq.2 h), fun h => movesBy_skipIf_not_taken s (beq_eq_false_iff_ne.2 h),
    keepsAllBut_skipIf_advance ..⟩

/-- The skip of SNE: taken exactly when the two bytes differ (R111, R113). -/
theorem skipIf_bne_spec (s : State) (a b : Byte) :
    (a ≠ b → MovesBy 4 s (s.skipIf (a != b)).advance) ∧ (a = b → MovesBy 2 s (s.skipIf (a != b)).advance) ∧
      KeepsAllBut [] [] s (s.skipIf (a != b)).advance :=
  ⟨fun h => movesBy_skipIf_taken s (bne_iff_ne.2 h), fun h => movesBy_skipIf_not_taken s (bne_eq_false_iff_eq.2 h),
    keepsAllBut_skipIf_advance ..⟩

/-! ### The statements -/

/-- Settles O25: each answers the skip under the comparison of the register with the operand byte. -/
theorem skipsOnAByte : Obligations.SkipsOnAByte := fun x kk s =>
  ⟨⟨_, exec_seByte x kk s, skipIf_beq_spec s (s.reg x) kk⟩, ⟨_, exec_sneByte x kk s, skipIf_bne_spec s (s.reg x) kk⟩⟩

/-- Settles O26: each answers the skip under the comparison of the two registers. -/
theorem skipsOnARegister : Obligations.SkipsOnARegister := fun x y s =>
  ⟨⟨_, exec_seReg x y s, skipIf_beq_spec s (s.reg x) (s.reg y)⟩,
    ⟨_, exec_sneReg x y s, skipIf_bne_spec s (s.reg x) (s.reg y)⟩⟩

end Sys2Proof.Claims
end

section
/-! The register operations that write a result and no flag (LD, ADD Vx, kk), and those that write a sum or a difference
and its flag (ADD, SUB, SUBN): 44_register_ops.md R120 to R122, R126, R127, R129, R133. -/

namespace Sys2Proof.Machine

/-! ### What the instructions answer -/

theorem exec_ldByte (x : Reg) (kk : Byte) (s : State) : exec (.ldByte x kk) s = .next (s.setReg x kk).advance := rfl

theorem exec_ldReg (x y : Reg) (s : State) : exec (.ldReg x y) s = .next (s.setReg x (s.reg y)).advance := rfl

theorem exec_addByte (x : Reg) (kk : Byte) (s : State) :
    exec (.addByte x kk) s = .next (s.setReg x (s.reg x + kk)).advance := rfl

theorem exec_addReg (x y : Reg) (s : State) : exec (.addReg x y) s =
    .next (s.setResultThenFlag x (s.reg x + s.reg y) (carryFlag (s.reg x) (s.reg y))).advance := rfl

theorem exec_subReg (x y : Reg) (s : State) : exec (.subReg x y) s =
    .next (s.setResultThenFlag x (s.reg x - s.reg y) (noBorrowFlag (s.reg x) (s.reg y))).advance := rfl

theorem exec_subnReg (x y : Reg) (s : State) : exec (.subnReg x y) s =
    .next (s.setResultThenFlag x (s.reg y - s.reg x) (noBorrowFlag (s.reg y) (s.reg x))).advance := rfl

/-! ### The result and the flag -/

/-- The flag is written last, so `VF` holds it whatever `x` is (R133). -/
@[simp] theorem State.setResultThenFlag_reg_VF (s : State) (x : Reg) (r f : Byte) :
    (s.setResultThenFlag x r f).reg VF = f := by
  rw [State.setResultThenFlag_reg, if_pos rfl]

/-- The result stands wherever the flag does not overwrite it (R133). -/
theorem State.setResultThenFlag_reg_result (s : State) {x : Reg} (r f : Byte) (hx : x ≠ VF) :
    (s.setResultThenFlag x r f).reg x = r := by
  rw [State.setResultThenFlag_reg, if_neg hx, if_pos rfl]

/-- The wrapped difference is the byte whose wrapped sum with the subtrahend is the minuend (R130). -/
theorem byte_sub_toNat_add (a b : Byte) : ((a - b).toNat + b.toNat) % 256 = a.toNat :=
  calc ((a - b).toNat + b.toNat) % 256 = (a - b + b).toNat := (BitVec.toNat_add (a - b) b).symm
    _ = a.toNat := congrArg BitVec.toNat (BitVec.sub_add_cancel a b)

end Sys2Proof.Machine

namespace Sys2Proof.Claims

open Sys2Proof.Machine

/-! ### The frame of a register write -/

/-- The V registers are no `Part`: writing one leaves every piece of state as it is. -/
@[simp] theorem same_setReg_iff (p : Part) (s t : State) (x : Reg) (b : Byte) :
    Same p s (t.setReg x b) ↔ Same p s t := by
  cases p <;> simp [Same]

/-- A write to a register that the frame lists is not seen by it. -/
theorem KeepsAllBut.setReg {parts : List Part} {regs : List Reg} {s t : State} (h : KeepsAllBut parts regs s t)
    {x : Reg} (hx : x ∈ regs) (b : Byte) : KeepsAllBut parts regs s (t.setReg x b) := by
  obtain ⟨hparts, hregs⟩ := h
  refine ⟨fun p hp => (same_setReg_iff ..).2 (hparts p hp), fun r hr => ?_⟩
  have hrx : r ≠ x := fun e => hr (e ▸ hx)
  exact (State.setReg_reg_other t b hrx).trans (hregs r hr)

theorem keepsAllBut_setReg (s : State) (x : Reg) (b : Byte) : KeepsAllBut [] [x] s (s.setReg x b) :=
  (KeepsAllBut.refl ..).setReg (by simp) b

theorem keepsAllBut_setResultThenFlag (s : State) (x : Reg) (r f : Byte) :
    KeepsAllBut [] [x, VF] s (s.setResultThenFlag x r f) :=
  ((KeepsAllBut.refl ..).setReg (by simp) r).setReg (by simp) f

/-! ### A register write, or a result and its flag, before the advance -/

/-- What an instruction that writes the byte `b` to Vx alone leaves: `b` there, and the rest as before. -/
theorem setReg_advance_spec (s : State) (x : Reg) (b : Byte) :
    (s.setReg x b).advance.reg x = b ∧ MovesBy 2 s (s.setReg x b).advance ∧
      KeepsAllBut [] [x] s (s.setReg x b).advance :=
  ⟨State.setReg_reg_same s x b, movesBy_advance rfl, (keepsAllBut_advance_iff ..).2 (keepsAllBut_setReg s x b)⟩

/-- What a flag writer leaves beside its result: the flag in `VF`, and the rest as before (R133). -/
theorem setResultThenFlag_advance_spec (s : State) (x : Reg) (r f : Byte) :
    (s.setResultThenFlag x r f).advance.reg VF = f ∧ MovesBy 2 s (s.setResultThenFlag x r f).advance ∧
      KeepsAllBut [] [x, VF] s (s.setResultThenFlag x r f).advance :=
  ⟨State.setResultThenFlag_reg_VF s x r f, movesBy_advance rfl,
    (keepsAllBut_advance_iff ..).2 (keepsAllBut_setResultThenFlag s x r f)⟩

/-- The result of a flag writer, where `x` is not 15, as a number (R133). -/
theorem setResultThenFlag_advance_result (s : State) {x : Reg} (r f : Byte) (hx : x ≠ VF) :
    ((s.setResultThenFlag x r f).advance.reg x).toNat = r.toNat :=
  congrArg BitVec.toNat (State.setResultThenFlag_reg_result s r f hx)

/-! ### The statements -/

/-- Settles O30: each answers the result and the flag of the old operands; the wrapped sum is the sum modulo 256, and the
wrapped difference gives the minuend when the subtrahend is added back. -/
theorem addAndSubtractWithFlag : Obligations.AddAndSubtractWithFlag := by
  intro x y s
  refine ⟨⟨_, exec_addReg x y s, fun hx => ?_, setResultThenFlag_advance_spec ..⟩,
    ⟨_, exec_subReg x y s, fun hx => ?_, setResultThenFlag_advance_spec ..⟩,
    ⟨_, exec_subnReg x y s, fun hx => ?_, setResultThenFlag_advance_spec ..⟩⟩
  · rw [setResultThenFlag_advance_result _ _ _ hx, BitVec.toNat_add]
  · rw [setResultThenFlag_advance_result _ _ _ hx, byte_sub_toNat_add]
  · rw [setResultThenFlag_advance_result _ _ _ hx, byte_sub_toNat_add]

/-- Settles O27: each answers the write of one byte to Vx. -/
theorem loadsOfARegister : Obligations.LoadsOfARegister := fun x y kk s =>
  ⟨⟨_, exec_ldByte x kk s, setReg_advance_spec s x kk⟩, ⟨_, exec_ldReg x y s, setReg_advance_spec s x (s.reg y)⟩⟩

/-- Settles O28: it answers the write of the wrapped sum to Vx, which as a number is the sum modulo 256. -/
theorem addByteWrapsWithoutFlag : Obligations.AddByteWrapsWithoutFlag := by
  intro x kk s
  obtain ⟨hx, hpc, hframe⟩ := setReg_advance_spec s x (s.reg x + kk)
  refine ⟨_, exec_addByte x kk s, ?_, hpc, hframe⟩
  rw [hx, BitVec.toNat_add]

end Sys2Proof.Claims
end

section
/-! The index register: LD I (45_index_memory.md R140). -/

namespace Sys2Proof.Machine

theorem exec_ldI (nnn : Addr12) (s : State) : exec (.ldI nnn) s = .next (s.setI (zext12 nnn)).advance := rfl

end Sys2Proof.Machine

namespace Sys2Proof.Claims

open Sys2Proof.Machine

/-- The index is the one piece of state that a write to it changes. -/
theorem same_setI {p : Part} (hp : p ≠ .index) (s : State) (w : Word) : Same p s (s.setI w) := by
  cases p with
  | index => exact absurd rfl hp
  | _ => simp [Same]

theorem keepsAllBut_setI (s : State) (w : Word) : KeepsAllBut [.index] [] s (s.setI w) :=
  ⟨fun _ hp => same_setI (List.ne_of_not_mem_cons hp) s w, fun r _ => State.setI_reg s w r⟩

/-- What an instruction that writes the word `w` to I alone leaves: `w` there, and the rest as before. -/
theorem setI_advance_spec (s : State) (w : Word) :
    (s.setI w).advance.i = w ∧ MovesBy 2 s (s.setI w).advance ∧ KeepsAllBut [.index] [] s (s.setI w).advance :=
  ⟨State.setI_i s w, movesBy_advance rfl, (keepsAllBut_advance_iff ..).2 (keepsAllBut_setI s w)⟩

/-- Settles O34: LD I answers the write of its operand to I, and the zero-extension keeps the operand's value. -/
theorem loadOfTheIndex : Obligations.LoadOfTheIndex := by
  intro nnn s
  obtain ⟨hi, hpc, hframe⟩ := setI_advance_spec s (zext12 nnn)
  refine ⟨_, exec_ldI nnn s, ?_, hpc, hframe⟩
  rw [hi, zext12_toNat]

end Sys2Proof.Claims
end

section
/-! The timers: LD Vx, DT; LD DT, Vx; LD ST, Vx (46_timers.md R150 to R152). -/

namespace Sys2Proof.Machine

theorem exec_ldVxDT (x : Reg) (s : State) : exec (.ldVxDT x) s = .next (s.setReg x s.dt).advance := rfl

theorem exec_ldDTVx (x : Reg) (s : State) : exec (.ldDTVx x) s = .next (s.setDT (s.reg x)).advance := rfl

theorem exec_ldSTVx (x : Reg) (s : State) : exec (.ldSTVx x) s = .next (s.setST (s.reg x)).advance := rfl

end Sys2Proof.Machine

namespace Sys2Proof.Claims

open Sys2Proof.Machine

/-- The delay timer is the one piece of state that a write to it changes. -/
theorem same_setDT {p : Part} (hp : p ≠ .delayTimer) (s : State) (b : Byte) : Same p s (s.setDT b) := by
  cases p with
  | delayTimer => exact absurd rfl hp
  | _ => simp [Same]

/-- The sound timer is the one piece of state that a write to it changes. -/
theorem same_setST {p : Part} (hp : p ≠ .soundTimer) (s : State) (b : Byte) : Same p s (s.setST b) := by
  cases p with
  | soundTimer => exact absurd rfl hp
  | _ => simp [Same]

/-- What an instruction leaves that, before its advance, has changed the one piece of state `p` and neither a register nor
the pc. -/
theorem movesBy_keepsAllBut_advance {p : Part} {s t : State} (hpc : t.pc = s.pc) (hreg : ∀ r, t.reg r = s.reg r)
    (hsame : ∀ q, q ≠ p → Same q s t) : MovesBy 2 s t.advance ∧ KeepsAllBut [p] [] s t.advance :=
  ⟨movesBy_advance hpc,
    (keepsAllBut_advance_iff ..).2 ⟨fun q hq => hsame q (List.ne_of_not_mem_cons hq), fun r _ => hreg r⟩⟩

/-- Settles O41: each answers one write, of DT to Vx or of Vx to the timer, and the write is seen only where it is made. -/
theorem timerCopies : Obligations.TimerCopies := fun x s =>
  ⟨⟨_, exec_ldVxDT x s, setReg_advance_spec s x s.dt⟩,
    ⟨_, exec_ldDTVx x s, State.setDT_dt s (s.reg x),
      movesBy_keepsAllBut_advance rfl (State.setDT_reg s _) fun _ hq => same_setDT hq s _⟩,
    ⟨_, exec_ldSTVx x s, State.setST_st s (s.reg x),
      movesBy_keepsAllBut_advance rfl (State.setST_reg s _) fun _ hq => same_setST hq s _⟩⟩

end Sys2Proof.Claims
end

section
/-! LOAD of an image that does not fit (70_reset_and_hazards.md R204). -/

namespace Sys2Proof.Machine

/-- A refused operation leaves the state as it was (R204). -/
theorem HostOp.after_of_refused {op : HostOp} {s : State} {r : Refusal} (h : op.apply s = .refused r) :
    op.after s = s := by
  simp [HostOp.after, h]

/-- LOAD is refused when the image is longer than the program region (R204). -/
theorem HostOp.apply_load_of_progMax_lt {image : List Byte} (h : Config.progMax < image.length) (s : State) :
    (HostOp.load image).apply s = .refused .oversizedProgram :=
  if_neg (Nat.not_le_of_lt h)

end Sys2Proof.Machine

namespace Sys2Proof.Claims

open Sys2Proof.Machine

/-- Settles O49: LOAD's length check refuses the image, and a refused operation leaves the state as it was. -/
theorem oversizedLoadIsRejected : Obligations.OversizedLoadIsRejected := fun _ s hlen =>
  have hrefused := HostOp.apply_load_of_progMax_lt hlen s
  ⟨hrefused, HostOp.after_of_refused hrefused⟩

end Sys2Proof.Claims
end

section
/-! The decoder and the encoder are inverse to each other, and the words that select no instruction (30_encoding.md R61
to R66). -/

namespace Sys2Proof

/-! ### A word is the word of each shape, filled with its own fields -/

theorem nibble_fieldA_toNat (w : Word) : (BitVec.ofNat 4 (fieldA w)).toNat = w.toNat / 4096 := by
  have := w.isLt
  rw [BitVec.toNat_ofNat, fieldA_eq]
  omega

theorem shapeNNN_fields (w : Word) : shapeNNN (BitVec.ofNat 4 (fieldA w)) (fieldNNN w) = w := by
  apply BitVec.eq_of_toNat_eq
  rw [shapeNNN_toNat, nibble_fieldA_toNat, fieldNNN_toNat]
  omega

theorem shapeXKK_fields (w : Word) : shapeXKK (BitVec.ofNat 4 (fieldA w)) (fieldX w) (fieldKK w) = w := by
  apply BitVec.eq_of_toNat_eq
  rw [shapeXKK_toNat, nibble_fieldA_toNat, fieldX_val, fieldKK_toNat]
  omega

theorem shapeXYN_fields (w : Word) :
    shapeXYN (BitVec.ofNat 4 (fieldA w)) (fieldX w) (fieldY w) (nibble (fieldN w)) = w := by
  apply BitVec.eq_of_toNat_eq
  rw [shapeXYN_toNat, nibble_fieldA_toNat, fieldX_val, fieldY_val, nibble_toNat, fieldN_val]
  omega

/-! ### The decoder answers what the fields select -/

theorem decodeWord_eq_ok_iff (w : Word) (i : Instr) : decodeWord w = .ok i ↔
    decodeFields (fieldA w) (fieldX w) (fieldY w) (fieldN w) (fieldKK w) (fieldNNN w) = some i := by
  unfold decodeWord
  split <;> simp [*]

theorem decodeWord_rejects_iff (w : Word) : (∃ r, decodeWord w = .error r) ↔
    decodeFields (fieldA w) (fieldX w) (fieldY w) (fieldN w) (fieldKK w) (fieldNNN w) = none := by
  unfold decodeWord
  split <;> simp [*]

/-! ### From the instruction to its word and back -/

/-- The last nibble of a word of shape XYN, as the field that the decoder tests. -/
theorem fieldN_shapeXYN (a : BitVec 4) (x y n : Fin 16) : fieldN (shapeXYN a x y (nibble n)) = n := by
  apply Fin.ext
  rw [fieldN_shapeXYN_val, nibble_toNat]

/-- SYS is read back where its operand is neither that of CLS nor that of RET (R65, R86). -/
theorem decodeMajor0_of_sysOperandOk {nnn : Addr12} (h : sysOperandOk nnn = true) : decodeMajor0 nnn = .sys nnn := by
  obtain ⟨hcls, hret⟩ : nnn ≠ 0x0E0#12 ∧ nnn ≠ 0x0EE#12 := by simpa [sysOperandOk] using h
  simp [decodeMajor0, hcls, hret]

/-- The fields of the word of an instruction select that instruction. -/
theorem decodeWord_encode (i : Instr) (h : i.wf = true) : decodeWord (encode i) = .ok i := by
  rw [decodeWord_eq_ok_iff]
  cases i with
  | cls | ret => rfl
  | sys nnn => simp [encode, decodeFields, decodeMajor0_of_sysOperandOk h]
  | jp | call | ldI | jpV0 => simp [encode, decodeFields]
  | seByte | sneByte | ldByte | addByte | rnd => simp [encode, decodeFields]
  | seReg | sneReg => simp [encode, decodeFields, Fin.ext_iff]
  | ldReg | orReg | andReg | xorReg | addReg | subReg | shr | subnReg | shl =>
    simp [encode, decodeFields, decodeMajor8]
  | drw x y n => simp [encode, decodeFields, fieldN_shapeXYN]
  | skp | sknp => simp [encode, decodeFields, decodeMajorE]
  | ldVxDT | ldVxK | ldDTVx | ldSTVx | addI | ldF | ldB | storeRegs | loadRegs =>
    simp [encode, decodeFields, decodeMajorF]

/-- Settles O2: the operands are read back from the word's fields, the fixed nibbles select the row. -/
theorem decodeOfEncodeIsTheInstruction : Obligations.DecodeOfEncodeIsTheInstruction := decodeWord_encode

/-! ### From the word to its instruction and back -/

theorem decodeMajor0_encode (nnn : Addr12) :
    (decodeMajor0 nnn).wf = true ∧ encode (decodeMajor0 nnn) = shapeNNN 0x0#4 nnn := by
  unfold decodeMajor0
  split
  · subst nnn
    exact ⟨rfl, rfl⟩
  · split
    · subst nnn
      exact ⟨rfl, rfl⟩
    · exact ⟨by simp [Instr.wf, sysOperandOk, *], rfl⟩

theorem decodeMajor8_encode {x y n : Fin 16} {i : Instr} (h : decodeMajor8 x y n.val = some i) :
    i.wf = true ∧ encode i = shapeXYN 0x8#4 x y (nibble n) := by
  unfold decodeMajor8 at h
  split at h <;> cases h <;> exact ⟨rfl, by simp [encode, nibble, *]⟩

theorem decodeMajorE_encode {x : Reg} {kk : Byte} {i : Instr} (h : decodeMajorE x kk = some i) :
    i.wf = true ∧ encode i = shapeXKK 0xE#4 x kk := by
  unfold decodeMajorE at h
  split_ifs at h <;> cases h <;> subst kk <;> exact ⟨rfl, rfl⟩

theorem decodeMajorF_encode {x : Reg} {kk : Byte} {i : Instr} (h : decodeMajorF x kk = some i) :
    i.wf = true ∧ encode i = shapeXKK 0xF#4 x kk := by
  unfold decodeMajorF at h
  split_ifs at h <;> cases h <;> subst kk <;> exact ⟨rfl, rfl⟩

/-- What the fields select is well-formed, and its word is that of one of the three shapes, filled with these fields. -/
theorem decodeFields_encode {a : Nat} {x y : Reg} {n : Fin 16} {kk : Byte} {nnn : Addr12} {i : Instr}
    (h : decodeFields a x y n kk nnn = some i) :
    i.wf = true ∧ (encode i = shapeNNN (BitVec.ofNat 4 a) nnn ∨ encode i = shapeXKK (BitVec.ofNat 4 a) x kk ∨
      encode i = shapeXYN (BitVec.ofNat 4 a) x y (nibble n)) := by
  unfold decodeFields at h
  split at h
  case h_1 =>
    cases h
    exact (decodeMajor0_encode nnn).imp_right .inl
  case h_9 => exact (decodeMajor8_encode h).imp_right fun e => .inr (.inr e)
  case h_15 => exact (decodeMajorE_encode h).imp_right fun e => .inr (.inl e)
  case h_16 => exact (decodeMajorF_encode h).imp_right fun e => .inr (.inl e)
  case h_6 | h_10 =>
    obtain ⟨rfl, rfl⟩ : n = 0 ∧ _ = i := by simpa using h
    exact ⟨rfl, .inr (.inr rfl)⟩
  case h_14 =>
    cases h
    exact ⟨rfl, .inr (.inr rfl)⟩
  case h_4 | h_5 | h_7 | h_8 | h_13 =>
    cases h
    exact ⟨rfl, .inr (.inl rfl)⟩
  case h_2 | h_3 | h_11 | h_12 =>
    cases h
    exact ⟨rfl, .inl rfl⟩
  case h_17 => cases h

theorem decodeWord_ok_encode {w : Word} {i : Instr} (h : decodeWord w = .ok i) : i.wf = true ∧ encode i = w := by
  obtain ⟨hwf, hnnn | hxkk | hxyn⟩ := decodeFields_encode ((decodeWord_eq_ok_iff w i).1 h)
  · exact ⟨hwf, hnnn.trans (shapeNNN_fields w)⟩
  · exact ⟨hwf, hxkk.trans (shapeXKK_fields w)⟩
  · exact ⟨hwf, hxyn.trans (shapeXYN_fields w)⟩

/-- Settles O3: a word is its shape filled with its fields, and so is the word of what those fields select. -/
theorem encodeOfDecodeIsTheWord : Obligations.EncodeOfDecodeIsTheWord := fun _ _ => decodeWord_ok_encode

/-! ### The row of an instruction -/

/-- The family RowPattern as one statement: the word of every instruction lies in the instruction's row. -/
theorem encode_matches_row : ∀ i : Instr, Laws.RowPattern.Statement i
  | .cls => Laws.RowPattern.cls
  | .ret => Laws.RowPattern.ret
  | .sys nnn => Laws.RowPattern.sys nnn
  | .jp nnn => Laws.RowPattern.jp nnn
  | .call nnn => Laws.RowPattern.call nnn
  | .seByte x kk => Laws.RowPattern.seByte x kk
  | .sneByte x kk => Laws.RowPattern.sneByte x kk
  | .seReg x y => Laws.RowPattern.seReg x y
  | .ldByte x kk => Laws.RowPattern.ldByte x kk
  | .addByte x kk => Laws.RowPattern.addByte x kk
  | .ldReg x y => Laws.RowPattern.ldReg x y
  | .orReg x y => Laws.RowPattern.orReg x y
  | .andReg x y => Laws.RowPattern.andReg x y
  | .xorReg x y => Laws.RowPattern.xorReg x y
  | .addReg x y => Laws.RowPattern.addReg x y
  | .subReg x y => Laws.RowPattern.subReg x y
  | .shr x y => Laws.RowPattern.shr x y
  | .subnReg x y => Laws.RowPattern.subnReg x y
  | .shl x y => Laws.RowPattern.shl x y
  | .sneReg x y => Laws.RowPattern.sneReg x y
  | .ldI nnn => Laws.RowPattern.ldI nnn
  | .jpV0 nnn => Laws.RowPattern.jpV0 nnn
  | .rnd x kk => Laws.RowPattern.rnd x kk
  | .drw x y n => Laws.RowPattern.drw x y n
  | .skp x => Laws.RowPattern.skp x
  | .sknp x => Laws.RowPattern.sknp x
  | .ldVxDT x => Laws.RowPattern.ldVxDT x
  | .ldVxK x => Laws.RowPattern.ldVxK x
  | .ldDTVx x => Laws.RowPattern.ldDTVx x
  | .ldSTVx x => Laws.RowPattern.ldSTVx x
  | .addI x => Laws.RowPattern.addI x
  | .ldF x => Laws.RowPattern.ldF x
  | .ldB x => Laws.RowPattern.ldB x
  | .storeRegs x => Laws.RowPattern.storeRegs x
  | .loadRegs x => Laws.RowPattern.loadRegs x

/-- Settles O4: a word that decodes is the word of its instruction, and that lies in the instruction's row. -/
theorem decodedWordMatchesItsRow : Obligations.DecodedWordMatchesItsRow := by
  intro w i h
  obtain ⟨-, rfl⟩ := decodeWord_ok_encode h
  exact encode_matches_row i

/-! ### The words that select no instruction -/

theorem decodeMajor8_eq_none_iff (x y n : Fin 16) :
    decodeMajor8 x y n.val = none ↔ n.val ∈ [0x8, 0x9, 0xA, 0xB, 0xC, 0xD, 0xF] := by
  fin_cases n <;> simp [decodeMajor8]

theorem decodeMajorE_eq_none_iff (x : Reg) (kk : Byte) :
    decodeMajorE x kk = none ↔ kk.toNat ∉ [0x9E, 0xA1] := by
  unfold decodeMajorE
  split_ifs <;> simp_all [← BitVec.toNat_inj]

theorem decodeMajorF_eq_none_iff (x : Reg) (kk : Byte) :
    decodeMajorF x kk = none ↔ kk.toNat ∉ [0x07, 0x0A, 0x15, 0x18, 0x1E, 0x29, 0x33, 0x55, 0x65] := by
  unfold decodeMajorF
  split_ifs <;> simp_all [← BitVec.toNat_inj]

/-- The field combinations without a row, by the major opcode (R66). -/
theorem decodeFields_eq_none_iff {a : Nat} (ha : a < 16) (x y : Reg) (n : Fin 16) (kk : Byte) (nnn : Addr12) :
    decodeFields a x y n kk nnn = none ↔
      ((a = 0x5 ∧ n.val ≠ 0) ∨ (a = 0x8 ∧ n.val ∈ [0x8, 0x9, 0xA, 0xB, 0xC, 0xD, 0xF]) ∨ (a = 0x9 ∧ n.val ≠ 0) ∨
       (a = 0xE ∧ kk.toNat ∉ [0x9E, 0xA1]) ∨
       (a = 0xF ∧ kk.toNat ∉ [0x07, 0x0A, 0x15, 0x18, 0x1E, 0x29, 0x33, 0x55, 0x65])) := by
  rw [← decodeMajor8_eq_none_iff x y, ← decodeMajorE_eq_none_iff x, ← decodeMajorF_eq_none_iff x]
  interval_cases a <;> simp [decodeFields]

/-- Settles O5: the fields without a row, each field as the number it is of the word. -/
theorem unmatchedWordsAreExactlyTheListed : Obligations.UnmatchedWordsAreExactlyTheListed := by
  intro w
  have ha : w.toNat / 4096 < 16 := by
    have := w.isLt
    omega
  rw [decodeWord_rejects_iff, fieldA_eq, decodeFields_eq_none_iff ha, fieldN_val, fieldKK_toNat]

/-- Settles O1: ten closed words, each decoded by evaluation. -/
theorem sampleWordsDecode : Obligations.SampleWordsDecode := by
  unfold Obligations.SampleWordsDecode
  decide

end Sys2Proof
end

section
/-! What each instruction may write, said once: the pieces of state and the V registers (10_state.md; 60_exceptions.md
section 4). -/

namespace Sys2Proof.Claims

open Sys2Proof.Machine

/-! ### The frame of each state operation -/

/-- The frame of an operation that writes one piece of state and no V register. -/
theorem keepsAllBut_singleton {p : Part} {s t : State} (hreg : ∀ r, t.reg r = s.reg r)
    (hsame : ∀ q, q ≠ p → Same q s t) : KeepsAllBut [p] [] s t :=
  ⟨fun q hq => hsame q (List.ne_of_not_mem_cons hq), fun r _ => hreg r⟩

theorem same_loadRegs (p : Part) (s : State) (x : Reg) : Same p s (s.loadRegs x) := by
  cases p <;> simp [Same]

theorem keepsAllBut_setDT (s : State) (b : Byte) : KeepsAllBut [.delayTimer] [] s (s.setDT b) :=
  keepsAllBut_singleton (s.setDT_reg b) fun _ hp => same_setDT hp s b

theorem keepsAllBut_setST (s : State) (b : Byte) : KeepsAllBut [.soundTimer] [] s (s.setST b) :=
  keepsAllBut_singleton (s.setST_reg b) fun _ hp => same_setST hp s b

theorem keepsAllBut_setDisplay (s : State) (cells : Vector Bool 2048) :
    KeepsAllBut [.display] [] s (s.setDisplay cells) := by
  refine keepsAllBut_singleton (s.setDisplay_reg cells) fun p hp => ?_
  cases p with
  | display => exact absurd rfl hp
  | _ => simp [Same]

theorem keepsAllBut_setKey (s : State) (k : Reg) (down : Bool) : KeepsAllBut [.keys] [] s (s.setKey k down) := by
  refine keepsAllBut_singleton (s.setKey_reg k down) fun p hp => ?_
  cases p with
  | keys => exact absurd rfl hp
  | _ => simp [Same]

theorem keepsAllBut_setWait (s : State) (w : Option Reg) : KeepsAllBut [.wait] [] s (s.setWait w) := by
  refine keepsAllBut_singleton (s.setWait_reg w) fun p hp => ?_
  cases p with
  | wait => exact absurd rfl hp
  | _ => simp [Same]

theorem keepsAllBut_memWriteBytes (s : State) (a : Nat) (bs : List Byte) :
    KeepsAllBut [.memory] [] s (s.memWriteBytes a bs) := by
  refine keepsAllBut_singleton (s.memWriteBytes_reg a bs) fun p hp => ?_
  cases p with
  | memory => exact absurd rfl hp
  | _ => simp [Same]

theorem keepsAllBut_nextDraw (s : State) : KeepsAllBut [.draws] [] s s.nextDraw := by
  refine keepsAllBut_singleton s.nextDraw_reg fun p hp => ?_
  cases p with
  | draws => exact absurd rfl hp
  | _ => simp [Same]

theorem keepsAllBut_push (s : State) (w : Word) : KeepsAllBut [.stack] [] s (s.push w) := by
  refine keepsAllBut_singleton (s.push_reg w) fun p hp => ?_
  cases p with
  | stack => exact absurd rfl hp
  | _ => simp [Same]

theorem keepsAllBut_pop (s : State) : KeepsAllBut [.stack] [] s s.pop := by
  refine keepsAllBut_singleton s.pop_reg fun p hp => ?_
  cases p with
  | stack => exact absurd rfl hp
  | _ => simp [Same]

/-! ### Frames in a row -/

theorem Same.trans {p : Part} {s t u : State} (hst : Same p s t) (htu : Same p t u) : Same p s u := by
  cases p with
  | memory | keys => exact fun a => (htu a).trans (hst a)
  | stack => exact ⟨htu.1.trans hst.1, fun k => (htu.2 k).trans (hst.2 k)⟩
  | display => exact ⟨htu.1.trans hst.1, htu.2.trans hst.2⟩
  | _ => exact Eq.trans htu hst

theorem KeepsAllBut.trans {parts : List Part} {regs : List Reg} {s t u : State} (hst : KeepsAllBut parts regs s t)
    (htu : KeepsAllBut parts regs t u) : KeepsAllBut parts regs s u :=
  ⟨fun p hp => (hst.1 p hp).trans (htu.1 p hp), fun r hr => (htu.2 r hr).trans (hst.2 r hr)⟩

/-- A frame that lists more says less. -/
theorem KeepsAllBut.mono {parts parts' : List Part} {regs regs' : List Reg} {s t : State}
    (h : KeepsAllBut parts regs s t) (hparts : parts ⊆ parts') (hregs : regs ⊆ regs') :
    KeepsAllBut parts' regs' s t :=
  ⟨fun p hp => h.1 p fun hmem => hp (hparts hmem), fun r hr => h.2 r fun hmem => hr (hregs hmem)⟩

/-! ### The frame of every instruction -/

/-- The pieces of state, beside the V registers and the pc, that an instruction may write. -/
def writtenParts : Instr → List Part
  | .cls | .drw .. => [.display]
  | .ret | .call _ => [.stack]
  | .ldI _ | .addI _ | .ldF _ => [.index]
  | .ldB _ | .storeRegs _ => [.memory]
  | .ldDTVx _ => [.delayTimer]
  | .ldSTVx _ => [.soundTimer]
  | .ldVxK _ => [.wait]
  | .rnd .. => [.draws]
  | _ => []

/-- The V registers that an instruction may write, `VF` as a flag included. -/
def writtenRegs : Instr → List Reg
  | .ldByte x _ | .addByte x _ | .ldReg x _ | .orReg x _ | .andReg x _ | .xorReg x _ | .rnd x _ | .ldVxDT x => [x]
  | .addReg x _ | .subReg x _ | .shr x _ | .subnReg x _ | .shl x _ => [x, VF]
  | .drw .. => [VF]
  | .loadRegs x => (List.finRange 16).filter (· ≤ x)
  | _ => []

theorem keepsAllBut_loadRegs (s : State) (x : Reg) :
    KeepsAllBut [] ((List.finRange 16).filter (· ≤ x)) s (s.loadRegs x) := by
  refine ⟨fun p _ => same_loadRegs p s x, fun r hr => ?_⟩
  have hrx : ¬ r ≤ x := by simpa using hr
  rw [State.loadRegs_reg, if_neg hrx]

/-- The frame rule of the instruction set: an instruction changes what it is listed to write, and the pc. -/
theorem exec_frame {i : Instr} {s t : State} (h : exec i s = .next t) :
    KeepsAllBut (writtenParts i) (writtenRegs i) s t := by
  cases i <;> cases h
  case cls => exact (keepsAllBut_advance_iff ..).2 (keepsAllBut_setDisplay ..)
  case ret => exact (keepsAllBut_jumpTo_iff ..).2 (keepsAllBut_pop s)
  case call => exact (keepsAllBut_jumpTo_iff ..).2 (keepsAllBut_push ..)
  case jp | jpV0 => exact keepsAllBut_jumpTo ..
  case sys => exact (keepsAllBut_advance_iff ..).2 (KeepsAllBut.refl ..)
  case seByte | sneByte | seReg | sneReg | skp | sknp => exact keepsAllBut_skipIf_advance ..
  case ldByte | addByte | ldReg | orReg | andReg | xorReg | ldVxDT =>
    exact (keepsAllBut_advance_iff ..).2 (keepsAllBut_setReg ..)
  case addReg | subReg | shr | subnReg | shl =>
    exact (keepsAllBut_advance_iff ..).2 (keepsAllBut_setResultThenFlag ..)
  case ldI | addI | ldF => exact (keepsAllBut_advance_iff ..).2 (keepsAllBut_setI ..)
  case rnd x kk =>
    have hreg : KeepsAllBut [.draws] [x] s (s.setReg x (s.drawnByte &&& kk)) :=
      (keepsAllBut_setReg ..).mono (List.nil_subset _) (List.Subset.refl _)
    have hdraw := (keepsAllBut_nextDraw (s.setReg x (s.drawnByte &&& kk))).mono (List.Subset.refl _)
      (List.nil_subset [x])
    exact (keepsAllBut_advance_iff ..).2 (hreg.trans hdraw)
  case drw x y n =>
    exact (keepsAllBut_advance_iff ..).2 (((keepsAllBut_setDisplay s _).mono (List.Subset.refl _)
      (List.nil_subset [VF])).setReg (List.mem_singleton_self VF) _)
  case ldB | storeRegs => exact (keepsAllBut_advance_iff ..).2 (keepsAllBut_memWriteBytes ..)
  case ldDTVx => exact (keepsAllBut_advance_iff ..).2 (keepsAllBut_setDT ..)
  case ldSTVx => exact (keepsAllBut_advance_iff ..).2 (keepsAllBut_setST ..)
  case ldVxK => exact (keepsAllBut_advance_iff ..).2 (keepsAllBut_setWait ..)
  case loadRegs => exact (keepsAllBut_advance_iff ..).2 (keepsAllBut_loadRegs ..)

theorem exec_same {i : Instr} {s t : State} (h : exec i s = .next t) {p : Part} (hp : p ∉ writtenParts i) :
    Same p s t :=
  (exec_frame h).1 p hp

/-- The latch and READY are for the host alone to write (R12 to R24, R176). -/
theorem keys_ready_not_mem_writtenParts (i : Instr) : .keys ∉ writtenParts i ∧ .ready ∉ writtenParts i := by
  cases i <;> simp [writtenParts]

/-! ### Which writers there are -/

theorem stack_mem_writtenParts {i : Instr} (h : .stack ∈ writtenParts i) : i = .ret ∨ ∃ nnn, i = .call nnn := by
  cases i <;> simp_all [writtenParts]

theorem index_mem_writtenParts {i : Instr} (h : .index ∈ writtenParts i) :
    (∃ nnn, i = .ldI nnn) ∨ (∃ x, i = .addI x) ∨ ∃ x, i = .ldF x := by
  cases i <;> simp_all [writtenParts]

theorem memory_mem_writtenParts {i : Instr} (h : .memory ∈ writtenParts i) :
    (∃ x, i = .ldB x) ∨ ∃ x, i = .storeRegs x := by
  cases i <;> simp_all [writtenParts]

theorem delayTimer_mem_writtenParts {i : Instr} (h : .delayTimer ∈ writtenParts i) : ∃ x, i = .ldDTVx x := by
  cases i <;> simp_all [writtenParts]

theorem soundTimer_mem_writtenParts {i : Instr} (h : .soundTimer ∈ writtenParts i) : ∃ x, i = .ldSTVx x := by
  cases i <;> simp_all [writtenParts]

theorem wait_mem_writtenParts {i : Instr} (h : .wait ∈ writtenParts i) : ∃ x, i = .ldVxK x := by
  cases i <;> simp_all [writtenParts]

/-- The two instructions that write the display raise `CHANGED` (R20). -/
theorem exec_display_raises_changed {i : Instr} (hi : .display ∈ writtenParts i) {s t : State}
    (h : exec i s = .next t) : t.changed = true := by
  cases i with
  | cls | drw =>
    cases h
    rfl
  | _ => simp [writtenParts] at hi

/-- No instruction clears `CHANGED` (R20). -/
theorem exec_keeps_changed {i : Instr} {s t : State} (h : exec i s = .next t) (hs : s.changed = true) :
    t.changed = true := by
  by_cases hi : .display ∈ writtenParts i
  · exact exec_display_raises_changed hi h
  · obtain ⟨-, hchanged⟩ := exec_same h hi
    exact hchanged.trans hs

/-- Settles O55: the frame rule, read for one piece of state after another. -/
theorem onlyTheNamedInstructionsWriteSpecialState : Obligations.OnlyTheNamedInstructionsWriteSpecialState := by
  intro i s t h
  obtain ⟨hkeys, hready⟩ := keys_ready_not_mem_writtenParts i
  refine ⟨exec_same h hkeys, exec_same h hready, exec_keeps_changed h, fun hret hcall => exec_same h fun hmem => ?_,
    fun hldI haddI hldF => exec_same h fun hmem => ?_, fun hldB hstore => exec_same h fun hmem => ?_,
    fun hdt => exec_same h fun hmem => ?_, fun hst => exec_same h fun hmem => ?_,
    fun hwait => exec_same h fun hmem => ?_⟩
  · obtain rfl | ⟨nnn, rfl⟩ := stack_mem_writtenParts hmem
    · exact hret rfl
    · exact hcall nnn rfl
  · obtain ⟨nnn, rfl⟩ | ⟨x, rfl⟩ | ⟨x, rfl⟩ := index_mem_writtenParts hmem
    · exact hldI nnn rfl
    · exact haddI x rfl
    · exact hldF x rfl
  · obtain ⟨x, rfl⟩ | ⟨x, rfl⟩ := memory_mem_writtenParts hmem
    · exact hldB x rfl
    · exact hstore x rfl
  · obtain ⟨x, rfl⟩ := delayTimer_mem_writtenParts hmem
    exact hdt x rfl
  · obtain ⟨x, rfl⟩ := soundTimer_mem_writtenParts hmem
    exact hst x rfl
  · obtain ⟨x, rfl⟩ := wait_mem_writtenParts hmem
    exact hwait x rfl

end Sys2Proof.Claims
end

section
/-! STEP: what it can do, that it always completes, and that it and every other host operation keep the invariants
(40_execution_cycle.md R80, R81; 10_state.md R29; 60_exceptions.md R170). -/

namespace Sys2Proof.Machine

/-! ### What a STEP can do -/

/-- Every instruction completes from every state (R170). -/
theorem exec_completes (i : Instr) (s : State) : Completes (exec i s) := by
  cases i <;> exact ⟨_, rfl⟩

/-- The three ways of a STEP: held; an instruction; or a word that selects none (R80, R81, R87). -/
theorem step_cases (s : State) :
    (s.held = true ∧ step s = .next s) ∨
    (s.held = false ∧ ∃ i, decodeWord (fetchWord s) = .ok i ∧ step s = exec i s) ∨
    (s.held = false ∧ ∃ r, decodeWord (fetchWord s) = .error r ∧ step s = .next s.advance) := by
  cases hheld : s.held with
  | true => exact .inl ⟨rfl, step_of_held s hheld⟩
  | false =>
    cases hd : decodeWord (fetchWord s) with
    | ok i => exact .inr (.inl ⟨rfl, i, rfl, step_of_decode s i hheld hd⟩)
    | error r => exact .inr (.inr ⟨rfl, r, rfl, step_of_reject s r hheld hd⟩)

theorem step_completes (s : State) : Completes (step s) := by
  obtain ⟨-, hstep⟩ | ⟨-, i, -, hstep⟩ | ⟨-, r, -, hstep⟩ := step_cases s
  · exact ⟨s, hstep⟩
  · exact hstep ▸ exec_completes i s
  · exact ⟨s.advance, hstep⟩

theorem State.held_eq_false_iff (s : State) : s.held = false ↔ s.wait = none ∧ s.ready = true := by
  simp [State.held]

/-! ### The invariants -/

/-- The two instructions that write memory keep its canonical form, the others keep memory. -/
theorem exec_keeps_mem_wf {i : Instr} {s t : State} (h : exec i s = .next t) (hs : Memory.wf s.mem = true) :
    Memory.wf t.mem = true := by
  cases i with
  | ldB | storeRegs =>
    cases h
    exact State.memWriteBytes_wf s _ _ hs
  | loadRegs x =>
    cases h
    rwa [State.advance_mem, State.loadRegs_mem]
  | seByte | sneByte | seReg | sneReg | skp | sknp =>
    cases h
    rwa [State.advance_mem, State.skipIf_mem]
  | _ =>
    cases h
    exact hs

/-- An instruction leaves READY as it is, so one that runs while Ready may arm a key-wait (R29, R163). -/
theorem exec_keeps_inv {i : Instr} {s t : State} (h : exec i s = .next t) (hready : s.ready = true)
    (hs : Memory.wf s.mem = true) : t.Inv :=
  have hsame : t.ready = s.ready := Claims.exec_same h (Claims.keys_ready_not_mem_writtenParts i).2
  ⟨exec_keeps_mem_wf h hs, fun _ => hsame.trans hready⟩

theorem step_keeps_inv {s t : State} (hs : s.Inv) (h : step s = .next t) : t.Inv := by
  obtain ⟨-, hstep⟩ | ⟨hheld, i, -, hstep⟩ | ⟨-, r, -, hstep⟩ := step_cases s
  · cases hstep.symm.trans h
    exact hs
  · exact exec_keeps_inv (hstep.symm.trans h) ((State.held_eq_false_iff s).1 hheld).2 hs.1
  · cases hstep.symm.trans h
    exact hs

theorem reset_inv : State.reset.Inv := ⟨Memory.wf_nil, fun h => absurd rfl h⟩

/-- LOAD completes exactly when the image fits (R203, R204). -/
theorem load_eq_next_iff (image : List Byte) (s t : State) :
    load image s = .next t ↔ image.length ≤ Config.progMax ∧ t = loadImage image s := by
  unfold load
  split <;> simp [*, eq_comm]

/-- A key press ends a pending key-wait, so none is pending after it (R183). -/
theorem keyPress_wait (k : Nat) (s : State) : (keyPress k s).wait = none := by
  unfold keyPress
  split
  · assumption
  · rfl

theorem keyPress_mem (k : Nat) (s : State) : (keyPress k s).mem = s.mem := by
  unfold keyPress
  split <;> rfl

theorem hostOp_keeps_inv {op : HostOp} {s t : State} (hs : s.Inv) (h : op.apply s = .next t) : t.Inv := by
  cases op with
  | step => exact step_keeps_inv hs h
  | load image =>
    obtain ⟨-, rfl⟩ := (load_eq_next_iff image s t).1 h
    exact ⟨State.memWriteBytes_wf s _ _ hs.1, fun _ => rfl⟩
  | construct | unload =>
    cases h
    exact reset_inv
  | restart =>
    cases h
    exact ⟨hs.1, fun hwait => absurd rfl hwait⟩
  | keyDown k =>
    cases h
    exact ⟨(keyPress_mem k s).symm ▸ hs.1, fun hwait => absurd (keyPress_wait k s) hwait⟩
  | tick | keyUp | readOutputs | fbAck | debugRead =>
    cases h
    exact hs

/-- The state after an operation is its answer, or the state before where it does not complete. -/
theorem HostOp.after_cases (op : HostOp) (s : State) : op.apply s = .next (op.after s) ∨ op.after s = s := by
  unfold HostOp.after
  split
  · exact .inl ‹_›
  · exact .inr rfl
  · exact .inr rfl

theorem hostOp_after_keeps_inv (op : HostOp) (s : State) (hs : s.Inv) : (op.after s).Inv := by
  obtain h | h := HostOp.after_cases op s
  · exact hostOp_keeps_inv hs h
  · exact h.symm ▸ hs

/-! ### Runs of held STEPs -/

theorem State.held_of_wait {s : State} {r : Reg} (h : s.wait = some r) : s.held = true :=
  (State.held_iff s).2 (.inl (by simp [h]))

/-- On any machine, a state that a step answers with itself is where every run from it stays. -/
theorem run_of_step_fixed {M : Host.Core} {s : M.State} (h : M.step s = .next s) (k : Nat) : M.run k s = .next s := by
  induction k with
  | zero => rfl
  | succ k ih => simpa only [Host.Core.run, h] using ih

/-! ### What a fetch reads -/

/-- The word fetched from two bytes at the reduced pc and after it (R41, R44). -/
theorem fetchWord_of_memRead_mod {s : State} {hi lo : Byte} (hhi : s.memRead (s.pc.toNat % 4096) = hi)
    (hlo : s.memRead ((s.pc.toNat + 1) % 4096) = lo) : fetchWord s = hi ++ lo := by
  rw [State.memRead_mod] at hhi hlo
  rw [fetchWord, hhi, hlo]

/-- Two bytes stored read back at their address and after it. -/
theorem State.memWriteBytes_pair (s : State) (addr : Nat) (hi lo : Byte) (hs : Memory.wf s.mem = true) :
    (s.memWriteBytes addr [hi, lo]).memRead addr = hi ∧ (s.memWriteBytes addr [hi, lo]).memRead (addr + 1) = lo :=
  ⟨s.memWriteBytes_inside addr _ hs (by simp) 0 (by simp), s.memWriteBytes_inside addr _ hs (by simp) 1 (by simp)⟩

/-- The word placed at the pc is the one fetched (R42, R44). -/
theorem fetchWord_withFetchWord {s : State} (hs : Memory.wf s.mem = true) (nbits w : Nat) :
    fetchWord (s.withFetchWord nbits w) = tableWord nbits w := by
  obtain ⟨hhi, hlo⟩ :=
    s.memWriteBytes_pair s.pc.toNat (highByte (tableWord nbits w)) (lowByte (tableWord nbits w)) hs
  exact (congrArg₂ (· ++ ·) hhi hlo).trans (highByte_append_lowByte _)

/-- Two bytes that decode do so as the word they make. -/
theorem decodeWord_of_decodeBytes_pair {hi lo : Byte} {rest rest' : List Byte} {i : Instr}
    (h : decodeBytes (hi :: lo :: rest) = .ok (i, rest')) : decodeWord (hi ++ lo) = .ok i := by
  rw [decodeBytes_pair] at h
  cases hd : decodeWord (hi ++ lo) with
  | ok j =>
    obtain ⟨rfl, -⟩ : j = i ∧ rest = rest' := by simpa [hd, Except.map] using h
    rfl
  | error r => simp [hd, Except.map] at h

/-- What the host's question about a table word finds is what the decoder finds in that word. -/
theorem decodeWord_of_decodeTableWord {nbits w : Nat} {i : Instr} (h : decodeTableWord nbits w = some i) :
    decodeWord (tableWord nbits w) = .ok i := by
  unfold decodeTableWord at h
  split at h <;> cases h
  rw [← highByte_append_lowByte (tableWord nbits w)]
  exact decodeWord_of_decodeBytes_pair ‹_›

end Sys2Proof.Machine

namespace Sys2Proof.Claims

open Sys2Proof.Machine

/-- Settles O57: an instruction runs only while Ready, leaves READY and keeps the form of memory. -/
theorem stepKeepsTheInvariant : Obligations.StepKeepsTheInvariant := fun _ _ => step_keeps_inv

/-- Settles O59: by cases on the operation; STEP is O57, and the reset operations end a key-wait. -/
theorem hostOpKeepsTheInvariant : Obligations.HostOpKeepsTheInvariant := fun _ _ _ => hostOp_keeps_inv

/-- Settles O56: no key-wait is pending and nothing is listed in memory. -/
theorem invariantHoldsAtReset : Obligations.InvariantHoldsAtReset := reset_inv

/-- Settles O58: the invariants hold at reset and every operation keeps them. -/
theorem everyReachableStateIsGood : Obligations.EveryReachableStateIsGood := fun _ hs =>
  reachable_induction reset_inv hostOp_after_keeps_inv hs

/-- Settles O10: each of the three ways of a STEP answers a next state. -/
theorem stepAlwaysCompletes : Obligations.StepAlwaysCompletes := step_completes

/-- Settles O11: LOAD completes or is refused by the length of the image, STEP always completes, and the others are total
functions. -/
theorem onlyOversizedLoadIsRefused : Obligations.OnlyOversizedLoadIsRefused := by
  intro op s
  cases op with
  | load image =>
    by_cases hlen : image.length ≤ Config.progMax
    · exact .inl ⟨loadImage image s, if_pos hlen⟩
    · have hlong : Config.progMax < image.length := Nat.lt_of_not_le hlen
      exact .inr ⟨image, rfl, hlong, HostOp.apply_load_of_progMax_lt hlong s⟩
  | step => exact .inl (step_completes s)
  | _ => exact .inl ⟨_, rfl⟩

/-- Settles O8: both cases hold the STEP, and a held STEP answers the state it was given. -/
theorem heldStepsChangeNothing : Obligations.HeldStepsChangeNothing := by
  intro s k h
  refine run_of_step_fixed (M := core) (step_of_held s ?_) k
  obtain ⟨r, hwait⟩ | hready := h
  · exact State.held_of_wait hwait
  · exact (State.held_iff s).2 (.inr hready)

/-- Settles O6: the two bytes are the word that the STEP fetches and decodes. -/
theorem stepRunsTheDecodedInstruction : Obligations.StepRunsTheDecodedInstruction := by
  intro s hi lo i hwait hready hhi hlo hd
  have hword : decodeWord (fetchWord s) = .ok i := by
    rw [fetchWord_of_memRead_mod hhi hlo]
    exact decodeWord_of_decodeBytes_pair hd
  exact step_of_decode s i ((State.held_eq_false_iff s).2 ⟨hwait, hready⟩) hword

/-- Settles O7: the placed bytes are read back at the pc as the table's word. -/
theorem placedWordIsRunNext : Obligations.PlacedWordIsRunNext := by
  intro s w i hwf _ hd
  have hword : decodeWord (fetchWord (s.withFetchWord 16 w)) = .ok i := by
    rw [fetchWord_withFetchWord hwf]
    exact decodeWord_of_decodeTableWord hd
  exact step_of_decode _ i rfl hword

/-- Settles O9: STEP answers the advance, which the frame does not see. -/
theorem unmatchedWordIsANoOp : Obligations.UnmatchedWordIsANoOp := fun s r hwait hready hd =>
  ⟨s.advance, step_of_reject s r ((State.held_eq_false_iff s).2 ⟨hwait, hready⟩) hd, rfl,
    (keepsAllBut_advance_iff ..).2 (KeepsAllBut.refl ..)⟩

/-- Settles O13: STEP answers the jump to the pc it is at. -/
theorem jumpToItselfIsAFixedPoint : Obligations.JumpToItselfIsAFixedPoint := by
  intro s nnn hwait hready hd hpc
  have htarget : zext12 nnn = s.pc := BitVec.eq_of_toNat_eq (by rw [zext12_toNat, hpc])
  have hstay : s.jumpTo (zext12 nnn) = s := by rw [htarget, State.jumpTo]
  rw [step_of_decode s _ ((State.held_eq_false_iff s).2 ⟨hwait, hready⟩) hd, exec_jp, hstay]

end Sys2Proof.Claims
end

section
/-! Where every instruction but the jumps leaves the pc (40_execution_cycle.md R83, R84), the skips on a key (47_input.md
R161, R162) and the arming of the key-wait (R163). -/

namespace Sys2Proof.Machine

/-! ### What the instructions answer -/

theorem exec_skp (x : Reg) (s : State) :
    exec (.skp x) s = .next (s.skipIf (s.keyDown (keyIdx (s.reg x).toNat))).advance := rfl

theorem exec_sknp (x : Reg) (s : State) :
    exec (.sknp x) s = .next (s.skipIf (!s.keyDown (keyIdx (s.reg x).toNat))).advance := rfl

theorem exec_ldVxK (x : Reg) (s : State) : exec (.ldVxK x) s = .next (s.setWait (some x)).advance := rfl

/-- The key that a key code names, as the one register-sized number that is the clamped code (R160). -/
theorem eq_keyIdx_of_val {k : Reg} {v : Nat} (h : k.val = min v 15) : k = keyIdx v := Fin.ext h

theorem exists_clamped_key_iff (v : Nat) (p : Reg → Prop) : (∃ k : Reg, k.val = min v 15 ∧ p k) ↔ p (keyIdx v) :=
  ⟨fun ⟨_, hk, hp⟩ => eq_keyIdx_of_val hk ▸ hp, fun hp => ⟨keyIdx v, keyIdx_val v, hp⟩⟩

/-! ### The pc -/

/-- A skip, for whatever its condition says. -/
theorem pc_of_skip {s t : State} {cond : Bool} {p : Prop} (hp : p ↔ cond = true)
    (h : sequential (s.skipIf cond) = .next t) : (p → t.pc = s.pc + 4) ∧ (¬ p → t.pc = s.pc + 2) := by
  rw [hp, (sequential_eq_next _ t).1 h, State.skipIf_advance_pc]
  exact ⟨fun htaken => by rw [if_pos htaken], fun hnot => by rw [if_neg hnot]⟩

end Sys2Proof.Machine

namespace Sys2Proof.Claims

open Sys2Proof.Machine

/-- An instruction that is no skip: its condition never holds, and it moves the pc by 2. -/
theorem pc_of_no_skip {s t : State} (h : t.pc = s.pc + 2) :
    (False → t.pc = s.pc + 4) ∧ (¬ False → t.pc = s.pc + 2) :=
  ⟨False.elim, fun _ => h⟩

/-- Settles O12: the six skips under the condition of each, and the others, which leave the pc to the advance. -/
theorem everyPcMoveWrapsAt16Bits : Obligations.EveryPcMoveWrapsAt16Bits := by
  intro i s t hjump h
  cases i with
  | jp | jpV0 | call | ret => cases hjump
  | seByte | seReg => exact pc_of_skip beq_iff_eq.symm h
  | sneByte | sneReg => exact pc_of_skip bne_iff_ne.symm h
  | skp x => exact pc_of_skip (exists_clamped_key_iff _ _) h
  | sknp x => exact pc_of_skip ((exists_clamped_key_iff _ _).trans (Bool.not_eq_true' _).symm.to_iff) h
  | loadRegs x =>
    cases h
    exact pc_of_no_skip (congrArg (· + 2) (State.loadRegs_pc s x))
  | _ =>
    cases h
    exact pc_of_no_skip rfl

/-- Settles O42: each answers the skip under the latch of the clamped key, or under its negation. -/
theorem skipsOnAKey : Obligations.SkipsOnAKey := by
  intro x k s hk
  obtain rfl := eq_keyIdx_of_val hk
  refine ⟨⟨_, exec_skp x s, State.skipIf_advance_pc .., keepsAllBut_skipIf_advance ..⟩,
    ⟨_, exec_sknp x s, ?_, keepsAllBut_skipIf_advance ..⟩⟩
  rw [State.skipIf_advance_pc]
  cases s.keyDown (keyIdx (s.reg x).toNat) <;> rfl

/-- Settles O43: it answers the write of WAIT and the advance. -/
theorem keyWaitIsArmed : Obligations.KeyWaitIsArmed := fun x s =>
  ⟨_, exec_ldVxK x s, State.setWait_wait s (some x), rfl, exec_frame (i := .ldVxK x) rfl⟩

end Sys2Proof.Claims
end

section
/-! The register operations without a sum: bitwise operations, shifts, the random byte (44_register_ops.md R123 to R125,
R128, R131, R132); which instructions write `VF` as a flag (10_state.md R11); ADD I and LD F (45_index_memory.md R141,
R142); CLS (41_display.md R90). -/

namespace Sys2Proof.Machine

/-! ### What the instructions answer -/

theorem exec_orReg (x y : Reg) (s : State) :
    exec (.orReg x y) s = .next (s.setReg x (s.reg x ||| s.reg y)).advance := rfl

theorem exec_andReg (x y : Reg) (s : State) :
    exec (.andReg x y) s = .next (s.setReg x (s.reg x &&& s.reg y)).advance := rfl

theorem exec_xorReg (x y : Reg) (s : State) :
    exec (.xorReg x y) s = .next (s.setReg x (s.reg x ^^^ s.reg y)).advance := rfl

theorem exec_shr (x y : Reg) (s : State) : exec (.shr x y) s =
    .next (s.setResultThenFlag x (s.reg x >>> 1) (shrFlag (s.reg x))).advance := rfl

theorem exec_shl (x y : Reg) (s : State) : exec (.shl x y) s =
    .next (s.setResultThenFlag x (s.reg x <<< 1) (shlFlag (s.reg x))).advance := rfl

theorem exec_rnd (x : Reg) (kk : Byte) (s : State) :
    exec (.rnd x kk) s = .next (s.setReg x (Config.freeDraw s.draws &&& kk)).nextDraw.advance := rfl

theorem exec_addI (x : Reg) (s : State) : exec (.addI x) s = .next (s.setI (s.i + zext8 (s.reg x))).advance := rfl

theorem exec_ldF (x : Reg) (s : State) : exec (.ldF x) s = .next (s.setI (glyphAddr (s.reg x))).advance := rfl

theorem exec_cls (s : State) : exec .cls s = .next (s.setDisplay (Vector.replicate 2048 false)).advance := rfl

/-! ### The values of the flags -/

theorem carryFlag_eq (a b : Byte) : carryFlag a b = 0 ∨ carryFlag a b = 1 := by
  unfold carryFlag
  split
  · exact .inr rfl
  · exact .inl rfl

theorem noBorrowFlag_eq (a b : Byte) : noBorrowFlag a b = 0 ∨ noBorrowFlag a b = 1 := by
  unfold noBorrowFlag
  split
  · exact .inl rfl
  · exact .inr rfl

theorem collisionFlag_eq (coll : Bool) : collisionFlag coll = 0 ∨ collisionFlag coll = 1 := by
  cases coll with
  | false => exact .inl rfl
  | true => exact .inr rfl

/-- The bit that SHR shifts out is the remainder of the halving (R128). -/
theorem shrFlag_toNat (a : Byte) : (shrFlag a).toNat = a.toNat % 2 := by
  rw [shrFlag, BitVec.toNat_and]
  exact Nat.and_one_is_mod a.toNat

/-- The bit that SHL shifts out, in its place (R131). -/
theorem shlFlag_eq (a : Byte) : shlFlag a = if a.toNat ≥ 128 then 0x80 else 0 := by
  have hbit : a.getLsbD 7 = decide (a.toNat ≥ 128) := BitVec.msb_eq_decide a
  have hmask : shlFlag a = if a.getLsbD 7 then 0x80 else 0 := BitVec.and_twoPow a 7
  rw [hmask, hbit]
  simp

theorem shrFlag_eq (a : Byte) : shrFlag a = 0 ∨ shrFlag a = 1 := by
  obtain h | h : (shrFlag a).toNat = 0 ∨ (shrFlag a).toNat = 1 := by
    rw [shrFlag_toNat]
    omega
  · exact .inl (BitVec.eq_of_toNat_eq h)
  · exact .inr (BitVec.eq_of_toNat_eq h)

theorem byte_shiftLeft_one_toNat (a : Byte) : (a <<< 1).toNat = a.toNat * 2 % 256 := by
  rw [BitVec.toNat_shiftLeft, Nat.shiftLeft_eq]

theorem byte_shiftRight_one_toNat (a : Byte) : (a >>> 1).toNat = a.toNat / 2 := by
  rw [BitVec.toNat_ushiftRight, Nat.shiftRight_one]

end Sys2Proof.Machine

namespace Sys2Proof.Claims

open Sys2Proof.Machine

/-- Settles O29: each answers the write of the bitwise result to Vx, and its bits are those of the operation. -/
theorem bitwiseOpsWriteNoFlag : Obligations.BitwiseOpsWriteNoFlag := by
  intro x y s
  refine ⟨⟨_, exec_orReg x y s, fun b => ?_, rfl, exec_frame (i := .orReg x y) rfl⟩,
    ⟨_, exec_andReg x y s, fun b => ?_, rfl, exec_frame (i := .andReg x y) rfl⟩,
    ⟨_, exec_xorReg x y s, fun b => ?_, rfl, exec_frame (i := .xorReg x y) rfl⟩⟩
  · rw [State.advance_reg, State.setReg_reg_same, BitVec.getLsbD_or]
  · rw [State.advance_reg, State.setReg_reg_same, BitVec.getLsbD_and]
  · rw [State.advance_reg, State.setReg_reg_same, BitVec.getLsbD_xor]

/-- Settles O31: each answers the shifted Vx and then the flag of the old Vx. -/
theorem shiftsPutTheLostBitInVF : Obligations.ShiftsPutTheLostBitInVF := by
  intro x y s
  refine ⟨⟨_, exec_shr x y s, fun hx => ?_, ?_, rfl, exec_frame (i := .shr x y) rfl⟩,
    ⟨_, exec_shl x y s, fun hx => ?_, ?_, rfl, exec_frame (i := .shl x y) rfl⟩⟩
  · rw [setResultThenFlag_advance_result _ _ _ hx, byte_shiftRight_one_toNat]
  · rw [State.advance_reg, State.setResultThenFlag_reg_VF, shrFlag_toNat]
  · rw [setResultThenFlag_advance_result _ _ _ hx, byte_shiftLeft_one_toNat]
  · rw [State.advance_reg, State.setResultThenFlag_reg_VF, shlFlag_eq]
    split <;> rfl

/-- Settles O32: it answers the masked draw in Vx and the next draw. -/
theorem rndMasksAFreeByte : Obligations.RndMasksAFreeByte := by
  intro x kk s
  have hx : (s.setReg x (Config.freeDraw s.draws &&& kk)).nextDraw.advance.reg x = Config.freeDraw s.draws &&& kk :=
    State.setReg_reg_same s x _
  refine ⟨_, exec_rnd x kk s, hx, fun b hb => ?_, rfl, rfl, exec_frame (i := .rnd x kk) rfl⟩
  rw [hx, BitVec.getLsbD_and, hb, Bool.and_false]

/-! ### The flag -/

/-- The registers that an instruction may write are its ordinary destinations and, for the six flag writers, `VF`. -/
theorem mem_writtenRegs_iff (r : Reg) (i : Instr) :
    r ∈ writtenRegs i ↔ IsDestination r i ∨ writesFlag i = true ∧ r = VF := by
  cases i <;> simp [writtenRegs, IsDestination, writesFlag]

/-- What the six flag writers leave in `VF`: 0 or 1, or for SHL the raw bit 7 (R11). -/
theorem exec_flag_value {i : Instr} {s t : State} (hi : writesFlag i = true) (h : exec i s = .next t) :
    (t.reg VF = 0 ∨ t.reg VF = 1) ∨ (∃ x y, i = .shl x y) ∧ (t.reg VF = 0 ∨ t.reg VF = 0x80) := by
  cases i <;> cases hi <;> cases h
  case addReg =>
    rw [State.advance_reg, State.setResultThenFlag_reg_VF]
    exact .inl (carryFlag_eq ..)
  case subReg | subnReg =>
    rw [State.advance_reg, State.setResultThenFlag_reg_VF]
    exact .inl (noBorrowFlag_eq ..)
  case shr =>
    rw [State.advance_reg, State.setResultThenFlag_reg_VF]
    exact .inl (shrFlag_eq _)
  case shl x y =>
    rw [State.advance_reg, State.setResultThenFlag_reg_VF, shlFlag_eq]
    exact .inr ⟨⟨x, y, rfl⟩, (ite_eq_or_eq ..).symm⟩
  case drw =>
    rw [State.advance_reg, State.setReg_reg_same]
    exact .inl (collisionFlag_eq _)

/-- Settles O33: by the frame rule `VF` is written by its writers only, and each of the six puts its flag there last. -/
theorem sixInstructionsWriteTheFlag : Obligations.SixInstructionsWriteTheFlag := by
  intro i s t h
  refine ⟨fun hflag hdest => ?_, fun hflag hshl => ?_, ?_⟩
  · have hVF : VF ∉ writtenRegs i := by simp [mem_writtenRegs_iff, hdest, hflag]
    obtain ⟨-, hregs⟩ := exec_frame h
    exact hregs VF hVF
  · obtain hval | ⟨⟨x, y, rfl⟩, -⟩ := exec_flag_value hflag h
    · exact hval
    · exact absurd rfl (hshl x y)
  · rintro x y rfl
    have hVF : t.reg VF = shlFlag (s.reg x) := by
      cases h
      exact State.setResultThenFlag_reg_VF ..
    rw [hVF, shlFlag_eq]
    exact (ite_eq_or_eq ..).symm

/-! ### The index and the display -/

/-- Settles O35: each answers the write of its sum or product to I. -/
theorem indexArithmetic : Obligations.IndexArithmetic := by
  intro x s
  refine ⟨⟨_, exec_addI x s, ?_, rfl, exec_frame (i := .addI x) rfl⟩,
    ⟨_, exec_ldF x s, ?_, rfl, exec_frame (i := .ldF x) rfl⟩⟩
  · rw [State.advance_i, State.setI_i, BitVec.toNat_add, zext8_toNat]
  · rw [State.advance_i, State.setI_i, glyphAddr_toNat]

/-- On a display with every cell 0 no pixel is on. -/
theorem not_pixelOn_of_fb_clear {t : State} (h : t.fb = Vector.replicate 2048 false) (col row : Nat) :
    ¬ PixelOn t col row := by
  rw [PixelOn, h]
  simp [Vector.getElem?_replicate]

/-- Settles O16: it answers the clear display with `CHANGED` raised. -/
theorem clsClearsTheDisplay : Obligations.ClsClearsTheDisplay := fun s =>
  ⟨_, exec_cls s, not_pixelOn_of_fb_clear rfl, rfl, movesBy_advance rfl, exec_frame (i := .cls) rfl⟩

end Sys2Proof.Claims
end

section
/-! CALL and RET, one at a time and in a chain (42_control_flow.md R102 to R104). -/

namespace Sys2Proof.Machine

theorem exec_call (nnn : Addr12) (s : State) :
    exec (.call nnn) s = .next ((s.push (s.pc + 2)).jumpTo (zext12 nnn)) := rfl

theorem exec_ret (s : State) : exec .ret s = .next (s.pop.jumpTo (s.stackAt (popSlot s.sp))) := rfl

/-- The slot that a push writes, as a comparison of numbers. -/
theorem eq_pushSlot_iff (k : Fin 16) (sp : Fin 17) : k = pushSlot sp ↔ k.val = min sp.val 15 := by
  rw [Fin.ext_iff, pushSlot_val]

/-- A push that the jump of CALL follows, seen in a slot (R102). -/
theorem push_jumpTo_stackAt (s : State) (ret target : Word) (k : Fin 16) :
    ((s.push ret).jumpTo target).stackAt k = if k.val = min s.sp.val 15 then ret else s.stackAt k := by
  rw [State.jumpTo_stackAt, State.push_stackAt]
  simp only [eq_pushSlot_iff]

end Sys2Proof.Machine

namespace Sys2Proof.Claims

open Sys2Proof.Machine

/-- Settles O22: it answers the push of the return address and the jump; the slot is `sp` while there is room, else
15. -/
theorem callPushesTheReturnAddress : Obligations.CallPushesTheReturnAddress := by
  intro nnn s
  refine ⟨_, exec_call nnn s, zext12_toNat nnn, fun hroom => ⟨?_, fun k => ?_⟩, fun hfull => ⟨?_, fun k => ?_⟩,
    exec_frame (i := .call nnn) rfl⟩
  · rw [State.jumpTo_sp, State.push_sp_val, Nat.min_eq_left (by omega)]
  · rw [push_jumpTo_stackAt, Nat.min_eq_left (by omega)]
  · rw [State.jumpTo_sp, State.push_sp_val, hfull]
    rfl
  · rw [push_jumpTo_stackAt, hfull]
    rfl

/-- Settles O23: it answers the pop and the jump to the entry below `sp`, or to entry 0. -/
theorem retPopsTheReturnAddress : Obligations.RetPopsTheReturnAddress := by
  intro s
  refine ⟨_, exec_ret s, fun k hk => ⟨?_, ?_⟩, fun hempty => ⟨?_, ?_⟩, fun _ => rfl, exec_frame (i := .ret) rfl⟩
  · show s.sp.val - 1 = k.val
    omega
  · have hslot : popSlot s.sp = k := Fin.ext (by rw [popSlot_val]; omega)
    exact congrArg s.stackAt hslot
  · show s.sp.val - 1 = 0
    omega
  · have hslot : popSlot s.sp = 0 := Fin.ext (by rw [popSlot_val, hempty]; rfl)
    exact congrArg s.stackAt hslot

/-! ### Chains of instructions -/

theorem execAll_cons_of_next {i : Instr} {s t : State} (h : exec i s = .next t) (rest : List Instr) :
    execAll (i :: rest) s = execAll rest t := by
  rw [execAll, h]

theorem execAll_append (l l' : List Instr) (s : State) : execAll (l ++ l') s = (execAll l s).bind (execAll l') := by
  induction l generalizing s with
  | nil => rfl
  | cons i l ih =>
    obtain ⟨t, ht⟩ := exec_completes i s
    rw [List.cons_append, execAll_cons_of_next ht, execAll_cons_of_next ht, ih]

/-! ### A chain of CALLs -/

/-- What holds of the state `t` after the first `m` of a chain of CALLs from `s` on an empty stack: entry `k` below 15
is the `k`-th return address, and entry 15, once it is written, the latest one. -/
structure AfterCalls (s : State) (targets : List Addr12) (m : Nat) (t : State) : Prop where
  sp : t.sp.val = min m 16
  pc : t.pc + 2 = returnAddress s targets m
  low : ∀ k : Fin 16, k.val < 15 → k.val < m → t.stackAt k = returnAddress s targets k.val
  top : 16 ≤ m → t.stackAt 15 = returnAddress s targets (m - 1)

theorem AfterCalls.zero {s : State} (hsp : s.sp.val = 0) (targets : List Addr12) : AfterCalls s targets 0 s where
  sp := hsp
  pc := rfl
  low _ _ hk := absurd hk (Nat.not_lt_zero _)
  top h := absurd h (by decide)

/-- One more CALL writes the next return address to the slot `min m 15`. -/
theorem AfterCalls.succ {s t : State} {targets : List Addr12} {m : Nat} (h : AfterCalls s targets m t) :
    AfterCalls s targets (m + 1) ((t.push (t.pc + 2)).jumpTo (zext12 (targets.getD m 0))) where
  sp := by
    rw [State.jumpTo_sp, State.push_sp_val, h.sp]
    omega
  pc := rfl
  low k hk hkm := by
    rw [push_jumpTo_stackAt, h.sp, h.pc]
    split
    · have hkeq : k.val = m := by omega
      rw [hkeq]
    · exact h.low k hk (by omega)
  top hm := by
    have hslot : (15 : Fin 16).val = min t.sp.val 15 := by
      rw [h.sp]
      show 15 = _
      omega
    rw [push_jumpTo_stackAt, if_pos hslot, h.pc, Nat.add_sub_cancel]

theorem execAll_calls {s : State} (hsp : s.sp.val = 0) (targets : List Addr12) (m : Nat) (hm : m ≤ targets.length) :
    ∃ t, execAll ((targets.take m).map .call) s = some t ∧ AfterCalls s targets m t := by
  induction m with
  | zero => exact ⟨s, rfl, .zero hsp targets⟩
  | succ m ih =>
    obtain ⟨t, ht, hafter⟩ := ih (by omega)
    have hlast : targets.take (m + 1) = targets.take m ++ [targets.getD m 0] := by
      rw [List.take_succ_eq_append_getElem (by omega), List.getD_eq_getElem _ _ (by omega)]
    refine ⟨_, ?_, hafter.succ⟩
    rw [hlast, List.map_append, execAll_append, ht]
    exact execAll_cons_of_next (exec_call _ t) []

/-! ### A chain of RETs -/

/-- The entry that the `j`-th of a chain of RETs returns to (entry 0 on the empty stack). -/
def retSlot (sp : Fin 17) (j : Nat) : Fin 16 := ⟨sp.val - (j + 1), by omega⟩

/-- `j + 1` RETs take as many entries off and end at the last one taken, no entry being erased. -/
theorem execAll_rets (j : Nat) (t : State) :
    ∃ u, execAll (List.replicate (j + 1) .ret) t = some u ∧ u.sp.val = t.sp.val - (j + 1) ∧
      u.pc = t.stackAt (retSlot t.sp j) := by
  induction j generalizing t with
  | zero => exact ⟨_, execAll_cons_of_next (exec_ret t) [], rfl, rfl⟩
  | succ j ih =>
    obtain ⟨u, hu, husp, hupc⟩ := ih (t.pop.jumpTo (t.stackAt (popSlot t.sp)))
    have hsub : t.sp.val - 1 - (j + 1) = t.sp.val - (j + 1 + 1) := by omega
    have hslot : retSlot t.pop.sp j = retSlot t.sp (j + 1) := Fin.ext hsub
    exact ⟨u, (execAll_cons_of_next (exec_ret t) _).trans hu, husp.trans hsub, hupc.trans (congrArg t.stackAt hslot)⟩

/-- Settles O24: the chain of CALLs leaves `sp` 16 and the recorded addresses, which the chain of RETs reads from entry
15 down and, on the empty stack, from entry 0 again. -/
theorem seventeenCallsThenReturns : Obligations.SeventeenCallsThenReturns := by
  intro s targets hsp hlen
  obtain ⟨t, ht, hcalls⟩ := execAll_calls hsp targets targets.length (Nat.le_refl _)
  rw [List.take_length] at ht
  rw [hlen] at hcalls
  have htop : t.stackAt 15 = returnAddress s targets 16 := hcalls.top (by decide)
  refine ⟨t, ht, hcalls.sp, fun k hk => hcalls.low k hk (by omega), htop, fun j hj1 hj17 => ?_⟩
  obtain ⟨u, hu, husp, hupc⟩ := execAll_rets (j - 1) t
  rw [hcalls.sp, Nat.sub_add_cancel hj1] at husp
  have hslot : (retSlot t.sp (j - 1)).val = 16 - j := by
    show t.sp.val - (j - 1 + 1) = _
    rw [hcalls.sp, Nat.sub_add_cancel hj1]
    rfl
  refine ⟨u, Nat.sub_add_cancel hj1 ▸ hu, husp, hupc.trans ?_⟩
  split
  · have h15 : retSlot t.sp (j - 1) = 15 := Fin.ext (by rw [hslot, ‹j = 1›]; rfl)
    rw [h15, htop]
  · rw [hcalls.low _ (by omega) (by omega), hslot]

end Sys2Proof.Claims
end

section
/-! The instructions that read or write memory at I: LD B, LD [I], LD Vx, [I] (45_index_memory.md R143 to R145), and a
store over the next instruction (20_memory.md section 7). -/

namespace Sys2Proof.Machine

/-! ### What the instructions answer -/

theorem exec_ldB (x : Reg) (s : State) :
    exec (.ldB x) s = .next (s.memWriteBytes s.i.toNat (bcdDigits (s.reg x))).advance := rfl

theorem exec_storeRegs (x : Reg) (s : State) :
    exec (.storeRegs x) s = .next (s.memWriteBytes s.i.toNat (regBytes s x)).advance := rfl

theorem exec_loadRegs (x : Reg) (s : State) : exec (.loadRegs x) s = .next (s.loadRegs x).advance := rfl

/-! ### The bytes stored, read back -/

/-- The digits fit a byte, so each is the number it is computed as (R143). -/
theorem bcdDigits_toNat (b : Byte) :
    (bcdDigits b)[0].toNat = b.toNat / 100 ∧ (bcdDigits b)[1].toNat = b.toNat / 10 % 10 ∧
      (bcdDigits b)[2].toNat = b.toNat % 10 := by
  have hb : b.toNat < 2 ^ 8 := b.isLt
  simp only [bcdDigits, List.getElem_cons_zero, List.getElem_cons_succ, BitVec.toNat_ofNat]
  omega

theorem State.memRead_bcdDigits {s : State} (hs : Memory.wf s.mem = true) (addr : Nat) (b : Byte) (j : Nat)
    (hj : j < 3) : (s.memWriteBytes addr (bcdDigits b)).memRead (addr + j) = (bcdDigits b)[j]'hj :=
  s.memWriteBytes_inside addr (bcdDigits b) hs (by simp) j hj

/-- Each of the registers stored reads back at its address (R144). -/
theorem State.memRead_regBytes {s : State} (hs : Memory.wf s.mem = true) (addr : Nat) {x k : Reg} (hk : k ≤ x) :
    (s.memWriteBytes addr (regBytes s x)).memRead (addr + k.val) = s.reg k := by
  have hlen : k.val < (regBytes s x).length := by
    rw [regBytes_length]
    exact Nat.lt_succ_of_le hk
  have hroom : (regBytes s x).length ≤ 4096 := by
    rw [regBytes_length]
    omega
  rw [s.memWriteBytes_inside addr _ hs hroom k.val hlen, regBytes_getElem]

/-- The address of the next instruction, reduced: the wrap of the pc is no obstacle, since 4096 divides 2^16 (R41,
R85). -/
theorem word_add_two_mod (w : Word) : (w + 2).toNat % 4096 = (w.toNat + 2) % 4096 := by
  rw [BitVec.toNat_add]
  exact Nat.mod_mod_of_dvd _ (by decide)

end Sys2Proof.Machine

namespace Sys2Proof.Claims

open Sys2Proof.Machine

/-- Settles O36: it answers the three digits stored at I, which read back there, every other byte as before. -/
theorem bcdStoresThreeDigits : Obligations.BcdStoresThreeDigits := by
  intro x s hs
  obtain ⟨hhundreds, htens, hones⟩ := bcdDigits_toNat (s.reg x)
  have hdigit := State.memRead_bcdDigits hs s.i.toNat (s.reg x)
  refine ⟨_, exec_ldB x s, ?_, ?_, ?_, fun a ha => ?_, rfl, exec_frame (i := .ldB x) rfl⟩
  · exact (congrArg BitVec.toNat (hdigit 0 (by decide))).trans hhundreds
  · exact (congrArg BitVec.toNat (hdigit 1 (by decide))).trans htens
  · exact (congrArg BitVec.toNat (hdigit 2 (by decide))).trans hones
  · exact s.memWriteBytes_outside _ _ a ha

/-- Settles O37: it answers the registers stored at I, which read back there, every other byte as before. -/
theorem bulkStoreWritesV0ToVx : Obligations.BulkStoreWritesV0ToVx := by
  intro x s hs
  refine ⟨_, exec_storeRegs x s, fun k hk => State.memRead_regBytes hs _ hk, fun a ha => ?_, rfl,
    exec_frame (i := .storeRegs x) rfl⟩
  refine s.memWriteBytes_outside _ _ a fun j hj => ?_
  rw [regBytes_length] at hj
  exact ha ⟨j, by omega⟩ (Nat.le_of_lt_succ hj)

/-- Settles O38: it answers the bulk load, register by register. -/
theorem bulkLoadReadsV0ToVx : Obligations.BulkLoadReadsV0ToVx := by
  intro x s
  have hframe := (exec_frame (exec_loadRegs x s)).mono (List.Subset.refl []) (List.filter_subset_self _)
  refine ⟨_, exec_loadRegs x s, fun k hk => ?_, fun k hk => ?_, congrArg (· + 2) (s.loadRegs_pc x), hframe⟩
  · rw [State.advance_reg, State.loadRegs_reg, if_pos hk, State.memRead_mod]
  · rw [State.advance_reg, State.loadRegs_reg, if_neg (not_le_of_gt hk)]

/-- Settles O39: the load reads each register where the store wrote it. -/
theorem bulkStoreThenLoadRestores : Obligations.BulkStoreThenLoadRestores := by
  intro x s z hs
  refine ⟨_, exec_storeRegs x s, fun hmem hi => ⟨_, exec_loadRegs x z, fun k hk => ?_⟩⟩
  have hread : z.memRead (s.i.toNat + k.val) = s.reg k := by
    rw [State.memRead, hmem]
    exact State.memRead_regBytes hs _ hk
  rw [State.advance_reg, State.loadRegs_reg, if_pos hk, hi]
  exact hread

/-- Settles O40: the two bytes fetched next are, both addresses reduced, two of the registers just stored. -/
theorem storeIsSeenByTheNextFetch : Obligations.StoreIsSeenByTheNextFetch := by
  intro x k l s hs hl hlx haddr
  have hkx : k ≤ x := Nat.le_trans (by omega) hlx
  have hpc := word_add_two_mod s.pc
  have hhi : (s.pc + 2).toNat % 4096 = (s.i.toNat + k.val) % 4096 := by omega
  have hlo : ((s.pc + 2).toNat + 1) % 4096 = (s.i.toNat + l.val) % 4096 := by omega
  refine ⟨_, exec_storeRegs x s, congrArg₂ (· ++ ·) ?_ ?_⟩
  · exact (State.memRead_congr _ hhi).trans (State.memRead_regBytes hs _ hkx)
  · exact (State.memRead_congr _ hlo).trans (State.memRead_regBytes hs _ hlx)

end Sys2Proof.Claims
end

section
/-! The host operations: timers, keys, LOAD and the resets (60_exceptions.md R180 to R188; 70_reset_and_hazards.md R200
to R206), and the key-wait from end to end. -/

namespace Sys2Proof.Machine

/-! ### The key events -/

/-- A key press with no key-wait pending is a latch write (R183). -/
theorem keyPress_of_no_wait {s : State} (h : s.wait = none) (k : Nat) : keyPress k s = s.setKey (keyIdx k) true := by
  simp [keyPress, h]

/-- A key press that a register waits for also writes that register and ends the wait (R183). -/
theorem keyPress_of_wait {s : State} {r : Reg} (h : s.wait = some r) (k : Nat) : keyPress k s =
    ((s.setKey (keyIdx k) true).setReg r (BitVec.ofNat 8 (keyIdx k).val)).setWait none := by
  simp [keyPress, h]

/-- The latch after a key press, a key-wait pending or not (R183). -/
theorem keyPress_keyDown (k : Nat) (s : State) (m : Reg) :
    (keyPress k s).keyDown m = if m = keyIdx k then true else s.keyDown m := by
  cases h : s.wait with
  | none => rw [keyPress_of_no_wait h, State.setKey_keyDown]
  | some r => rw [keyPress_of_wait h, State.setWait_keyDown, State.setReg_keyDown, State.setKey_keyDown]

theorem keyPress_pc (k : Nat) (s : State) : (keyPress k s).pc = s.pc := by
  cases h : s.wait with
  | none => rw [keyPress_of_no_wait h, State.setKey_pc]
  | some r => rw [keyPress_of_wait h, State.setWait_pc, State.setReg_pc, State.setKey_pc]

theorem keyPress_ready (k : Nat) (s : State) : (keyPress k s).ready = s.ready := by
  cases h : s.wait with
  | none => rw [keyPress_of_no_wait h, State.setKey_ready]
  | some r => rw [keyPress_of_wait h, State.setWait_ready, State.setReg_ready, State.setKey_ready]

/-- A key number fits a byte. -/
theorem key_byte_toNat (k : Reg) : (BitVec.ofNat 8 k.val).toNat = k.val := by
  rw [BitVec.toNat_ofNat]
  omega

/-- The waiting register gets the clamped key code (R183). -/
theorem keyPress_reg_waiting {s : State} {r : Reg} (h : s.wait = some r) (k : Nat) :
    ((keyPress k s).reg r).toNat = min k 15 := by
  rw [keyPress_of_wait h, State.setWait_reg, State.setReg_reg_same, key_byte_toNat, keyIdx_val]

/-! ### Runs of STEPs alone -/

theorem HostOp.after_step_of_held {s : State} (h : s.held = true) : HostOp.step.after s = s :=
  HostOp.after_of_next (step_of_held s h)

theorem runOps_held_steps {s : State} (h : s.held = true) (n : Nat) : runOps (List.replicate n .step) s = s := by
  induction n with
  | zero => rfl
  | succ n ih =>
    rw [List.replicate_succ, runOps, HostOp.after_step_of_held h]
    exact ih

end Sys2Proof.Machine

namespace Sys2Proof.Claims

open Sys2Proof.Machine

/-! ### The frames of the host operations -/

theorem keepsAllBut_keyPress_of_no_wait {s : State} (h : s.wait = none) (k : Nat) :
    KeepsAllBut [.keys] [] s (keyPress k s) :=
  keyPress_of_no_wait h k ▸ keepsAllBut_setKey ..

theorem keepsAllBut_keyPress_of_wait {s : State} {r : Reg} (h : s.wait = some r) (k : Nat) :
    KeepsAllBut [.keys, .wait] [r] s (keyPress k s) := by
  have hkey : KeepsAllBut [.keys, .wait] [r] s (s.setKey (keyIdx k) true) :=
    (keepsAllBut_setKey ..).mono (by simp) (List.nil_subset _)
  have hreg := hkey.setReg (List.mem_singleton_self r) (BitVec.ofNat 8 (keyIdx k).val)
  rw [keyPress_of_wait h]
  exact hreg.trans ((keepsAllBut_setWait ..).mono (by simp) (List.nil_subset _))

theorem keepsAllBut_tick (s : State) : KeepsAllBut [.delayTimer, .soundTimer] [] s (tick s) :=
  ((keepsAllBut_setDT s (countDown s.dt)).mono (by simp) (List.Subset.refl _)).trans
    ((keepsAllBut_setST _ (countDown s.st)).mono (by simp) (List.Subset.refl _))

theorem keepsAllBut_loadImage (image : List Byte) (s : State) :
    KeepsAllBut [.memory, .ready] [] s (loadImage image s) := by
  have hmem : KeepsAllBut [.memory, .ready] [] s (s.memWriteBytes Config.progBase image) :=
    (keepsAllBut_memWriteBytes ..).mono (by simp) (List.Subset.refl _)
  refine ⟨fun p hp => ?_, hmem.2⟩
  cases p with
  | ready => simp at hp
  | _ => exact hmem.1 _ hp

/-- The display part of the state is the cells and `CHANGED`; FB_ACK writes the latter alone (R188). -/
theorem keepsAllBut_fbAck (s : State) : KeepsAllBut [.display] [] s (fbAck s) := by
  refine keepsAllBut_singleton (fun _ => rfl) fun p hp => ?_
  cases p with
  | display => exact absurd rfl hp
  | stack => exact ⟨rfl, fun _ => rfl⟩
  | memory | keys => exact fun _ => rfl
  | _ => exact rfl

/-- What CONSTRUCT gives differs from the state of R28 in the model's draw counter alone (R200). -/
theorem keepsAllBut_construct (s : State) : KeepsAllBut [.draws] [] State.reset (construct s) := by
  refine keepsAllBut_singleton (fun _ => rfl) fun p hp => ?_
  cases p with
  | draws => exact absurd rfl hp
  | stack => exact ⟨rfl, fun _ => rfl⟩
  | display => exact ⟨rfl, rfl⟩
  | memory | keys => exact fun _ => rfl
  | _ => exact rfl

/-! ### Timers and keys -/

/-- Settles O45: TICK answers the two count-downs, each a subtraction floored at 0. -/
theorem tickCountsBothTimersDown : Obligations.TickCountsBothTimersDown := fun s =>
  ⟨tick s, rfl, countDown_toNat s.dt, countDown_toNat s.st, rfl, keepsAllBut_tick s⟩

/-- Settles O46: KEY_DOWN is a latch write, with a write of the waiting register where there is one; KEY_UP is a latch
write. -/
theorem keyEventsUpdateTheLatch : Obligations.KeyEventsUpdateTheLatch := by
  intro k j s hj
  obtain rfl := eq_keyIdx_of_val hj
  refine ⟨⟨keyPress k s, rfl, keyPress_keyDown k s, keyPress_wait k s,
      fun r hr => ⟨keyPress_reg_waiting hr k, keepsAllBut_keyPress_of_wait hr k⟩,
      fun hnone => keepsAllBut_keyPress_of_no_wait hnone k, keyPress_pc k s⟩,
    ⟨keyRelease k s, rfl, fun m => s.setKey_keyDown _ m false, keepsAllBut_setKey .., rfl⟩⟩

/-- Settles O47: a STEP is held, and the operations that are not listed write neither WAIT, the pc nor a register. -/
theorem keyWaitEndsOnlyByTheHost : Obligations.KeyWaitEndsOnlyByTheHost := by
  intro op s t r hwait h
  cases op with
  | keyDown k => exact .inl (.inl ⟨k, rfl⟩)
  | restart => exact .inl (.inr (.inl rfl))
  | unload => exact .inl (.inr (.inr (.inl rfl)))
  | construct => exact .inl (.inr (.inr (.inr rfl)))
  | step =>
    cases (step_of_held s (State.held_of_wait hwait)).symm.trans h
    exact .inr ⟨hwait, rfl, fun _ => rfl⟩
  | load image =>
    obtain ⟨-, rfl⟩ := (load_eq_next_iff image s t).1 h
    exact .inr ⟨hwait, rfl, fun _ => rfl⟩
  | tick | keyUp | readOutputs | fbAck | debugRead =>
    cases h
    exact .inr ⟨hwait, rfl, fun _ => rfl⟩

/-- Settles O44: the first STEP arms the wait, the STEPs after it are held, and the key press ends it. -/
theorem keyWaitRunsToTheKeyPress : Obligations.KeyWaitRunsToTheKeyPress := by
  intro s x n k hwait hready hd u
  have hheld : s.held = false := (State.held_eq_false_iff s).2 ⟨hwait, hready⟩
  have hstep : HostOp.step.after s = (s.setWait (some x)).advance :=
    HostOp.after_of_next ((step_of_decode s _ hheld hd).trans (exec_ldVxK x s))
  have hwaiting : (s.setWait (some x)).advance.wait = some x := rfl
  have hu : u = keyPress k (s.setWait (some x)).advance := by
    show runOps (.step :: (List.replicate n .step ++ [.keyDown k])) s = _
    rw [runOps, hstep, runOps_append, runOps_held_steps (State.held_of_wait hwaiting)]
    rfl
  rw [hu]
  have hnone := keyPress_wait k (s.setWait (some x)).advance
  have harmed : KeepsAllBut [.keys, .wait] [x] s (s.setWait (some x)).advance :=
    (exec_frame (exec_ldVxK x s)).mono (by simp [writtenParts]) (List.nil_subset _)
  obtain ⟨hparts, hregs⟩ := harmed.trans (keepsAllBut_keyPress_of_wait hwaiting k)
  refine ⟨keyPress_reg_waiting hwaiting k, hnone, (keyPress_ready k _).trans hready, keyPress_pc k _,
    fun p hp => ?_, hregs⟩
  by_cases hpw : p = .wait
  · subst hpw
    exact hnone.trans hwait.symm
  · exact hparts p (by simp_all)

/-! ### LOAD -/

/-- Settles O48: LOAD answers the image stored at 0x200, which does not wrap, and READY. -/
theorem loadCopiesTheImage : Obligations.LoadCopiesTheImage := by
  intro image s hs hlen
  refine ⟨loadImage image s, if_pos hlen, rfl, fun j hj => ?_, fun a ha => ?_, rfl, keepsAllBut_loadImage image s⟩
  · exact s.memWriteBytes_inside Config.progBase image hs (by omega) j hj
  · refine s.memWriteBytes_outside Config.progBase image a fun j hj => ?_
    show a % 4096 ≠ (0x200 + j) % 4096
    omega

/-! ### The resets and FB_ACK -/

/-- Above the font table an unlisted cell reads 0 (R28). -/
theorem background_above_font {a : Nat} (h : 0x050 ≤ a) : Memory.background a = 0 :=
  List.getD_eq_default _ _ h

/-- Settles O54: every vector is a constant one, and nothing is listed in memory. -/
theorem resetStateIsAsConstructed : Obligations.ResetStateIsAsConstructed := by
  refine ⟨fun x => Vector.getElem_replicate .., rfl, rfl, rfl, fun k => Vector.getElem_replicate .., rfl, rfl,
    not_pixelOn_of_fb_clear rfl, rfl, fun k => Vector.getElem_replicate .., rfl, rfl, fun a hlo hhi => ?_⟩
  have hreduced : 0x050 ≤ effAddr a := by
    rw [effAddr, Nat.mod_eq_of_lt hhi]
    exact hlo
  exact background_above_font hreduced

/-- Settles O50: RESTART answers the state after CONSTRUCT with memory, READY and the draw counter of the state
before. -/
theorem restartKeepsOnlyMemoryAndReady : Obligations.RestartKeepsOnlyMemoryAndReady := by
  intro s
  obtain ⟨hreg, hi, hpc, hsp, hstack, hdt, hst, hfb, hchanged, hkey, hwait, -, -⟩ := resetStateIsAsConstructed
  exact ⟨restart s, rfl, hreg, hi, hpc, hsp, hstack, hdt, hst, hfb, hchanged, hkey, hwait, fun _ => rfl, rfl, rfl⟩

/-- Settles O51: UNLOAD and CONSTRUCT answer one state, that of reset but for the draw counter. -/
theorem unloadReturnsToTheConstructedState : Obligations.UnloadReturnsToTheConstructedState := fun s =>
  ⟨unload s, rfl, rfl, keepsAllBut_construct s, rfl⟩

/-- Settles O52: FB_ACK answers the write of `CHANGED` alone. -/
theorem fbAckClearsChanged : Obligations.FbAckClearsChanged := fun s =>
  ⟨fbAck s, rfl, rfl, rfl, rfl, keepsAllBut_fbAck s⟩

end Sys2Proof.Claims
end

section
/-! What the machine does not read: the draw counter but for RND, and `CHANGED` altogether (40_execution_cycle.md section
1; 60_exceptions.md R188). -/

namespace Sys2Proof.Machine

/-- Other contents of `CHANGED` and of the draw counter, and every other piece of state as it is. -/
def State.withChangedDraws (s : State) (c : Bool) (d : Nat) : State := { s with changed := c, draws := d }

theorem State.skipIf_withChangedDraws (s : State) (c : Bool) (d : Nat) (cond : Bool) :
    (s.withChangedDraws c d).skipIf cond = (s.skipIf cond).withChangedDraws c d := by
  cases cond <;> rfl

/-- Every register write of the bulk load commutes with replacing the two fields, so the whole fold does. -/
theorem State.loadRegs_withChangedDraws (s : State) (c : Bool) (d : Nat) (x : Reg) :
    (s.withChangedDraws c d).loadRegs x = (s.loadRegs x).withChangedDraws c d := by
  refine List.foldl_hom (fun t : State => t.withChangedDraws c d) fun t k => ?_
  split <;> rfl

theorem sequential_skipIf_withChangedDraws (s : State) (c : Bool) (d : Nat) (cond : Bool) :
    sequential ((s.withChangedDraws c d).skipIf cond) = .next ((s.skipIf cond).advance.withChangedDraws c d) := by
  rw [State.skipIf_withChangedDraws]
  rfl

/-- `CHANGED` after an instruction, from what it was before: CLS and DRW raise it, the others leave it (R20). -/
def changedAfter (i : Instr) (c : Bool) : Bool := if .display ∈ Claims.writtenParts i then true else c

theorem exec_changed {i : Instr} {s t : State} (h : exec i s = .next t) : t.changed = changedAfter i s.changed := by
  unfold changedAfter
  split
  · exact Claims.exec_display_raises_changed ‹_› h
  · exact (Claims.exec_same (p := .display) h ‹_›).2

/-- Only RND uses up a draw (R132). -/
theorem exec_draws {i : Instr} (hrnd : ∀ x kk, i ≠ .rnd x kk) {s t : State} (h : exec i s = .next t) :
    t.draws = s.draws := by
  refine Claims.exec_same (p := .draws) h fun hmem => ?_
  cases i with
  | rnd x kk => exact hrnd x kk rfl
  | _ => simp [Claims.writtenParts] at hmem

/-- Every instruction but RND commutes with replacing the two fields, but that CLS and DRW raise `CHANGED`. -/
theorem exec_withChangedDraws {i : Instr} (hrnd : ∀ x kk, i ≠ .rnd x kk) {s t : State} (h : exec i s = .next t)
    (c : Bool) (d : Nat) :
    exec i (s.withChangedDraws c d) = .next (t.withChangedDraws (changedAfter i c) d) := by
  cases i with
  | rnd x kk => exact absurd rfl (hrnd x kk)
  | seByte | sneByte | seReg | sneReg | skp | sknp =>
    cases h
    exact sequential_skipIf_withChangedDraws s c d _
  | loadRegs x =>
    cases h
    exact congrArg sequential (s.loadRegs_withChangedDraws c d x)
  | _ =>
    cases h
    rfl

theorem exec_withDraws {i : Instr} (hrnd : ∀ x kk, i ≠ .rnd x kk) {s t : State} (h : exec i s = .next t) (d : Nat) :
    exec i { s with draws := d } = .next { t with draws := d } := by
  have ht : t.withChangedDraws (changedAfter i s.changed) d = { t with draws := d } := by
    rw [← exec_changed h, State.withChangedDraws]
  exact (exec_withChangedDraws hrnd h s.changed d).trans (congrArg _ ht)

/-- RND reads the draw counter, but `CHANGED` no more than the others do. -/
theorem exec_rnd_withChanged {x : Reg} {kk : Byte} {s t : State} (h : exec (.rnd x kk) s = .next t) (c : Bool) :
    exec (.rnd x kk) { s with changed := c } = .next { t with changed := c } := by
  cases h
  rfl

theorem exec_withChanged {i : Instr} {s t : State} (h : exec i s = .next t) (c : Bool) :
    ∃ c', exec i { s with changed := c } = .next { t with changed := c' } := by
  by_cases hrnd : ∀ x kk, i ≠ .rnd x kk
  · have ht : t.withChangedDraws (changedAfter i c) s.draws = { t with changed := changedAfter i c } := by
      rw [← exec_draws hrnd h, State.withChangedDraws]
    exact ⟨_, (exec_withChangedDraws hrnd h c s.draws).trans (congrArg _ ht)⟩
  · push Not at hrnd
    obtain ⟨x, kk, rfl⟩ := hrnd
    exact ⟨c, exec_rnd_withChanged h c⟩

/-! ### STEP and the host operations -/

/-- A STEP goes the same way from two states that are held alike and fetch the same word. -/
theorem step_same_way {s s' t : State} (hheld : s'.held = s.held) (hword : fetchWord s' = fetchWord s)
    (h : step s = .next t) :
    (t = s ∧ step s' = .next s') ∨ (t = s.advance ∧ step s' = .next s'.advance) ∨
      ∃ i, decodeWord (fetchWord s) = .ok i ∧ exec i s = .next t ∧ step s' = exec i s' := by
  obtain ⟨hs, hstep⟩ | ⟨hs, i, hd, hstep⟩ | ⟨hs, r, hd, hstep⟩ := step_cases s
  · cases hstep.symm.trans h
    exact .inl ⟨rfl, step_of_held s' (hheld.trans hs)⟩
  · exact .inr (.inr ⟨i, hd, hstep.symm.trans h, step_of_decode s' i (hheld.trans hs) (hword ▸ hd)⟩)
  · cases hstep.symm.trans h
    exact .inr (.inl ⟨rfl, step_of_reject s' r (hheld.trans hs) (hword ▸ hd)⟩)

theorem step_withChanged {s t : State} (h : step s = .next t) (c : Bool) :
    ∃ c', step { s with changed := c } = .next { t with changed := c' } := by
  obtain ⟨rfl, hc⟩ | ⟨rfl, hc⟩ | ⟨i, -, hexec, hc⟩ := step_same_way (s := s) (s' := { s with changed := c }) rfl rfl h
  · exact ⟨c, hc⟩
  · exact ⟨c, hc⟩
  · exact hc ▸ exec_withChanged hexec c

theorem keyPress_withChanged (k : Nat) (s : State) (c : Bool) :
    keyPress k { s with changed := c } = { keyPress k s with changed := c } := by
  obtain h | ⟨r, h⟩ := Option.eq_none_or_eq_some s.wait
  · rw [keyPress_of_no_wait h]
    exact keyPress_of_no_wait (s := { s with changed := c }) h k
  · rw [keyPress_of_wait h]
    exact keyPress_of_wait (s := { s with changed := c }) h k

end Sys2Proof.Machine

namespace Sys2Proof.Claims

open Sys2Proof.Machine

/-- Settles O14: both STEPs go the same way, and every instruction but RND commutes with replacing the draw counter. -/
theorem onlyRndDependsOnTheDraw : Obligations.OnlyRndDependsOnTheDraw := by
  intro s t d hrnd h
  obtain ⟨rfl, hd⟩ | ⟨rfl, hd⟩ | ⟨i, hi, hexec, hd⟩ := step_same_way (s := s) (s' := { s with draws := d }) rfl rfl h
  · exact hd
  · exact hd
  · exact hd.trans (exec_withDraws (fun x kk e => hrnd x kk (e ▸ hi)) hexec d)

/-- Settles O53: the resets and FB_ACK write `CHANGED` without reading it, the others hand it on or raise it. -/
theorem changedAffectsNothingElse : Obligations.ChangedAffectsNothingElse := by
  intro op s t c h
  cases op with
  | step => exact step_withChanged h c
  | load image =>
    obtain ⟨hlen, rfl⟩ := (load_eq_next_iff image s t).1 h
    exact ⟨c, (load_eq_next_iff ..).2 ⟨hlen, rfl⟩⟩
  | keyDown k =>
    cases h
    exact ⟨c, congrArg _ (keyPress_withChanged k s c)⟩
  | construct | unload | restart | fbAck =>
    cases h
    exact ⟨false, rfl⟩
  | tick | keyUp | readOutputs | debugRead =>
    cases h
    exact ⟨c, rfl⟩

end Sys2Proof.Claims
end

section
/-! DRW (41_display.md R91): a sprite is the list of the cells on which it has a 1 bit, without repetition, and drawing
it flips each of them once. -/

namespace Sys2Proof.Machine

/-! ### Flipping cells -/

/-- One cell flipped, and a collision where it was on (R91). -/
def flipCell (d : Drawing) (k : Fin 2048) : Drawing := (d.1.set k.val (!d.1[k.val]), d.2 || d.1[k.val])

theorem flipCell_cell (d : Drawing) (j k : Fin 2048) :
    (flipCell d j).1[k.val] = (d.1[k.val] ^^ decide (k = j)) := by
  simp only [flipCell, Vector.getElem_set]
  by_cases h : j = k
  · subst h
    simp
  · have hval : j.val ≠ k.val := fun e => h (Fin.ext e)
    simp [hval, Ne.symm h]

/-- Flipping cells without repetition: each cell of the list is flipped, and no other. -/
theorem foldl_flipCell_cell {l : List (Fin 2048)} (hl : l.Nodup) (d : Drawing) (k : Fin 2048) :
    (l.foldl flipCell d).1[k.val] = (d.1[k.val] ^^ decide (k ∈ l)) := by
  induction l generalizing d with
  | nil => simp
  | cons j l ih =>
    obtain ⟨hj, hl⟩ := List.nodup_cons.1 hl
    rw [List.foldl_cons, ih hl, flipCell_cell]
    by_cases h : k = j
    · subst h
      simp [hj]
    · simp [h]

/-- Flipping cells without repetition: a collision is a cell of the list that was on before. -/
theorem foldl_flipCell_collision {l : List (Fin 2048)} (hl : l.Nodup) (d : Drawing) :
    (l.foldl flipCell d).2 = true ↔ d.2 = true ∨ ∃ k ∈ l, d.1[k.val] = true := by
  induction l generalizing d with
  | nil => simp
  | cons j l ih =>
    obtain ⟨hj, hl⟩ := List.nodup_cons.1 hl
    have hrest : ∀ k ∈ l, (flipCell d j).1[k.val] = d.1[k.val] := by
      intro k hk
      have hkj : k ≠ j := fun e => hj (e ▸ hk)
      rw [flipCell_cell, decide_eq_false hkj, Bool.xor_false]
    have hfirst : (flipCell d j).2 = true ↔ d.2 = true ∨ d.1[j.val] = true := Bool.or_eq_true_iff
    rw [List.foldl_cons, ih hl, hfirst, or_assoc, List.exists_mem_cons_iff]
    exact or_congr_right (or_congr_right (exists_congr fun k => and_congr_right fun hk => by rw [hrest k hk]))

/-! ### The cells of a sprite -/

/-- The cells of one row of a sprite, in the screen row `py`: those of its 1 bits. -/
def rowCells (row : Byte) (vx py : Nat) : List (Fin 2048) :=
  ((List.range 8).filter (spriteBit row)).map fun c => cellIndex (vx + c) py

/-- The cells of a sprite, row by row. -/
def spriteCells : List Byte → Nat → Nat → List (Fin 2048)
  | [], _, _ => []
  | row :: rest, vx, vy => rowCells row vx vy ++ spriteCells rest vx (vy + 1)

theorem drawRow_eq_foldl (row : Byte) (vx py : Nat) (d : Drawing) :
    drawRow row vx py d = (rowCells row vx py).foldl flipCell d := by
  rw [rowCells, List.foldl_map, List.foldl_filter]
  rfl

theorem drawSprite_eq_foldl (rows : List Byte) (vx vy : Nat) (d : Drawing) :
    drawSprite rows vx vy d = (spriteCells rows vx vy).foldl flipCell d := by
  induction rows generalizing vy d with
  | nil => rfl
  | cons row rest ih => rw [drawSprite, ih, drawRow_eq_foldl, spriteCells, List.foldl_append]

theorem cellIndex_eq_iff (px py px' py' : Nat) :
    cellIndex px py = cellIndex px' py' ↔ px % 64 = px' % 64 ∧ py % 32 = py' % 32 := by
  rw [Fin.ext_iff, cellIndex_val, cellIndex_val]
  omega

theorem mem_rowCells {row : Byte} {vx py : Nat} {k : Fin 2048} :
    k ∈ rowCells row vx py ↔ ∃ c, c < 8 ∧ spriteBit row c = true ∧ k = cellIndex (vx + c) py := by
  simp only [rowCells, List.mem_map, List.mem_filter, List.mem_range, and_assoc, eq_comm (a := k)]

theorem mem_spriteCells {rows : List Byte} {vx vy : Nat} {k : Fin 2048} :
    k ∈ spriteCells rows vx vy ↔
      ∃ r, ∃ hr : r < rows.length, ∃ c, c < 8 ∧ spriteBit rows[r] c = true ∧ k = cellIndex (vx + c) (vy + r) := by
  induction rows generalizing vy with
  | nil => simp [spriteCells]
  | cons row rest ih =>
    rw [spriteCells, List.mem_append, mem_rowCells, ih]
    constructor
    · rintro (hfirst | ⟨r, hr, hrest⟩)
      · exact ⟨0, Nat.succ_pos _, hfirst⟩
      · rw [Nat.add_right_comm, Nat.add_assoc] at hrest
        exact ⟨r + 1, Nat.succ_lt_succ hr, hrest⟩
    · rintro ⟨r, hr, hcell⟩
      cases r with
      | zero => exact .inl hcell
      | succ r =>
        refine .inr ⟨r, Nat.lt_of_succ_lt_succ hr, ?_⟩
        rw [Nat.add_right_comm, Nat.add_assoc]
        exact hcell

/-- Eight columns in a row of 64 are distinct (R91). -/
theorem rowCells_nodup (row : Byte) (vx py : Nat) : (rowCells row vx py).Nodup := by
  refine List.Nodup.map_on (fun c hc c' hc' h => ?_) (List.nodup_range.filter _)
  have hc8 : c < 8 := List.mem_range.1 (List.mem_filter.1 hc).1
  have hc8' : c' < 8 := List.mem_range.1 (List.mem_filter.1 hc').1
  obtain ⟨hcol, -⟩ := (cellIndex_eq_iff ..).1 h
  omega

/-- At most 32 rows on a screen of 32 are distinct, so no cell is met twice (R91). -/
theorem spriteCells_nodup {rows : List Byte} (hlen : rows.length ≤ 32) (vx vy : Nat) :
    (spriteCells rows vx vy).Nodup := by
  induction rows generalizing vy with
  | nil => exact List.nodup_nil
  | cons row rest ih =>
    have hlen' : rest.length + 1 ≤ 32 := hlen
    refine List.nodup_append'.2 ⟨rowCells_nodup row vx vy, ih (by omega) (vy + 1), fun k hfirst hrest => ?_⟩
    obtain ⟨c, -, -, rfl⟩ := mem_rowCells.1 hfirst
    obtain ⟨r, hr, c', -, -, h⟩ := mem_spriteCells.1 hrest
    obtain ⟨-, hrow⟩ := (cellIndex_eq_iff ..).1 h
    omega

/-! ### DRW -/

/-- The cells that DRW Vx, Vy, n flips. -/
def drwCells (s : State) (x y : Reg) (n : Fin 16) : List (Fin 2048) :=
  spriteCells (spriteRows s n) (s.reg x).toNat (s.reg y).toNat

theorem drwCells_nodup (s : State) (x y : Reg) (n : Fin 16) : (drwCells s x y n).Nodup := by
  refine spriteCells_nodup ?_ _ _
  rw [spriteRows_length]
  omega

/-- The display and the collision after DRW. -/
def drwDrawing (s : State) (x y : Reg) (n : Fin 16) : Drawing := (drwCells s x y n).foldl flipCell (s.fb, false)

/-- The state after DRW. -/
def drwState (s : State) (x y : Reg) (n : Fin 16) : State :=
  ((s.setDisplay (drwDrawing s x y n).1).setReg VF (collisionFlag (drwDrawing s x y n).2)).advance

theorem exec_drw (x y : Reg) (n : Fin 16) (s : State) : exec (.drw x y n) s = .next (drwState s x y n) := by
  rw [drwState, drwDrawing, drwCells, ← drawSprite_eq_foldl]
  rfl

theorem drwState_cell (s : State) (x y : Reg) (n : Fin 16) (k : Fin 2048) :
    (drwState s x y n).fb[k.val] = (s.fb[k.val] ^^ decide (k ∈ drwCells s x y n)) :=
  foldl_flipCell_cell (drwCells_nodup s x y n) (s.fb, false) k

theorem drwState_reg_VF (s : State) (x y : Reg) (n : Fin 16) :
    (drwState s x y n).reg VF = collisionFlag (drwDrawing s x y n).2 :=
  State.setReg_reg_same ..

theorem drwDrawing_collision_iff (s : State) (x y : Reg) (n : Fin 16) :
    (drwDrawing s x y n).2 = true ↔ ∃ k ∈ drwCells s x y n, s.fb[k.val] = true := by
  simpa [drwDrawing] using foldl_flipCell_collision (drwCells_nodup s x y n) (s.fb, false)

/-- The flag of DRW, by whether the sprite met a cell that was on (R91). -/
theorem drwState_flag (s : State) (x y : Reg) (n : Fin 16) {p : Prop}
    (hp : (∃ k ∈ drwCells s x y n, s.fb[k.val] = true) ↔ p) :
    (p → (drwState s x y n).reg VF = 1) ∧ (¬ p → (drwState s x y n).reg VF = 0) := by
  rw [drwState_reg_VF, ← hp, ← drwDrawing_collision_iff]
  cases (drwDrawing s x y n).2 <;> simp [collisionFlag]

/-- A DRW that changes neither of its coordinates flips the same cells when it is executed again. -/
theorem drwCells_drwState (s : State) {x y : Reg} (n : Fin 16) (hx : x ≠ VF) (hy : y ≠ VF) :
    drwCells (drwState s x y n) x y n = drwCells s x y n := by
  have hregx : (drwState s x y n).reg x = s.reg x := State.setReg_reg_other _ _ hx
  have hregy : (drwState s x y n).reg y = s.reg y := State.setReg_reg_other _ _ hy
  have hrows : spriteRows (drwState s x y n) n = spriteRows s n := rfl
  rw [drwCells, hregx, hregy, hrows, drwCells]

end Sys2Proof.Machine

namespace Sys2Proof.Claims

open Sys2Proof.Machine

/-! ### Pixels and cells -/

/-- A pixel of the screen is the cell at its coordinates (R19). -/
theorem pixelOn_iff {col row : Nat} (hcol : col < 64) (hrow : row < 32) (s : State) :
    PixelOn s col row ↔ s.fb[(cellIndex col row).val] = true := by
  have hk : row * 64 + col = (cellIndex col row).val := by
    rw [cellIndex_val]
    omega
  rw [PixelOn, hk, Vector.getElem?_eq_getElem (cellIndex col row).isLt, Option.some_inj]

/-- Every cell is that of a pixel of the screen (R19). -/
theorem exists_pixel_of_cell (k : Fin 2048) : ∃ col row, col < 64 ∧ row < 32 ∧ k = cellIndex col row := by
  refine ⟨k.val % 64, k.val / 64, by omega, by omega, Fin.ext ?_⟩
  rw [cellIndex_val]
  omega

/-- The sprite has a 1 bit for a pixel exactly when the pixel's cell is one of its cells. -/
theorem spriteCovers_iff {col row : Nat} (hcol : col < 64) (hrow : row < 32) (s : State) (x y : Reg) (n : Fin 16) :
    SpriteCovers s x y n col row ↔ cellIndex col row ∈ drwCells s x y n := by
  have hcell : ∀ px py, (px % 64 = col ∧ py % 32 = row) ↔ cellIndex col row = cellIndex px py := by
    intro px py
    rw [cellIndex_eq_iff, Nat.mod_eq_of_lt hcol, Nat.mod_eq_of_lt hrow, eq_comm (a := col), eq_comm (a := row)]
  simp only [SpriteCovers, drwCells, mem_spriteCells, ← hcell, spriteRows_length, spriteRows_getElem, spriteBit]
  constructor
  · rintro ⟨r, c, hr, hc, hpx, hpy, hbit⟩
    exact ⟨r, hr, c, hc, hbit, hpx, hpy⟩
  · rintro ⟨r, hr, c, hc, hbit, hpx, hpy⟩
    exact ⟨r, c, hr, hc, hpx, hpy, hbit⟩

/-- Something holds of a cell exactly when it holds of the cell of a pixel of the screen. -/
theorem exists_cell_iff (p : Fin 2048 → Prop) :
    (∃ k, p k) ↔ ∃ col row, col < 64 ∧ row < 32 ∧ p (cellIndex col row) := by
  constructor
  · rintro ⟨k, hk⟩
    obtain ⟨col, row, hcol, hrow, rfl⟩ := exists_pixel_of_cell k
    exact ⟨col, row, hcol, hrow, hk⟩
  · rintro ⟨col, row, -, -, hk⟩
    exact ⟨_, hk⟩

/-- The collision of DRW in terms of pixels (R91). -/
theorem drwCollision_iff_pixel (s : State) (x y : Reg) (n : Fin 16) :
    (∃ k ∈ drwCells s x y n, s.fb[k.val] = true) ↔
      ∃ col row, PixelOn s col row ∧ col < 64 ∧ row < 32 ∧ SpriteCovers s x y n col row := by
  rw [exists_cell_iff]
  refine exists_congr fun col => exists_congr fun row => ?_
  constructor
  · rintro ⟨hcol, hrow, hmem, hon⟩
    exact ⟨(pixelOn_iff hcol hrow s).2 hon, hcol, hrow, (spriteCovers_iff hcol hrow s x y n).2 hmem⟩
  · rintro ⟨hon, hcol, hrow, hcovers⟩
    exact ⟨hcol, hrow, (spriteCovers_iff hcol hrow s x y n).1 hcovers, (pixelOn_iff hcol hrow s).1 hon⟩

/-- The cells that a second DRW finds on are those of the pixels that the first one turned on. -/
theorem drwTwiceCollision_iff_pixel (s : State) {x y : Reg} (n : Fin 16) (hx : x ≠ VF) (hy : y ≠ VF) :
    (∃ k ∈ drwCells (drwState s x y n) x y n, (drwState s x y n).fb[k.val] = true) ↔
      ∃ col row, col < 64 ∧ row < 32 ∧ PixelOn (drwState s x y n) col row ∧ ¬ PixelOn s col row := by
  rw [exists_cell_iff, drwCells_drwState s n hx hy]
  refine exists_congr fun col => exists_congr fun row => and_congr_right fun hcol => and_congr_right fun hrow => ?_
  rw [pixelOn_iff hcol hrow, pixelOn_iff hcol hrow, drwState_cell]
  by_cases hmem : cellIndex col row ∈ drwCells s x y n <;> simp [hmem]

/-- Settles O17: DRW flips the cells of the sprite's 1 bits, each once, and reports whether one of them was on. -/
theorem drwXorsTheSprite : Obligations.DrwXorsTheSprite := by
  intro x y n s
  obtain ⟨hcollision, hno⟩ := drwState_flag s x y n (drwCollision_iff_pixel s x y n)
  refine ⟨drwState s x y n, exec_drw x y n s, fun col row hcol hrow => ?_, hcollision, hno, rfl, rfl,
    exec_frame (exec_drw x y n s)⟩
  rw [pixelOn_iff hcol hrow, pixelOn_iff hcol hrow, spriteCovers_iff hcol hrow, drwState_cell]
  by_cases hmem : cellIndex col row ∈ drwCells s x y n <;> simp [hmem]

/-- Settles O18: the second draw flips the same cells back, and finds on those that the first one turned on. -/
theorem drwTwiceRestoresTheDisplay : Obligations.DrwTwiceRestoresTheDisplay := by
  intro x y n s hx hy
  refine ⟨drwState s x y n, drwState (drwState s x y n) x y n, exec_drw .., exec_drw .., ?_,
    drwState_flag _ x y n (drwTwiceCollision_iff_pixel s n hx hy)⟩
  refine Vector.ext fun k hk => ?_
  have hcell := drwState_cell s x y n ⟨k, hk⟩
  calc (drwState (drwState s x y n) x y n).fb[k]
      = ((drwState s x y n).fb[k] ^^ decide (⟨k, hk⟩ ∈ drwCells s x y n)) := by
        rw [← drwCells_drwState s n hx hy]
        exact drwState_cell (drwState s x y n) x y n ⟨k, hk⟩
    _ = ((s.fb[k] ^^ decide (⟨k, hk⟩ ∈ drwCells s x y n)) ^^ decide (⟨k, hk⟩ ∈ drwCells s x y n)) :=
        congrArg (· ^^ _) hcell
    _ = s.fb[k] := by rw [Bool.xor_assoc, Bool.xor_self, Bool.xor_false]

end Sys2Proof.Claims
end
